-- ==== Sys2Proof/Word.lean ====
section
/-! DEFINITION. The word types of SPU2-CORE (spec 00_scope.md R6, R7).

Only what the spec treats as bits is a bit vector: command words, register contents, addresses, stored samples.
Signal arithmetic is over the mathematical integers (R7) and meets these types only where a rule stores a value. -/

namespace Sys2Proof

/-- A word presented on `cmd_word` (30_encoding.md R92). -/
abbrev CmdWord := BitVec 32

/-- A 16-bit word: a register's contents, a word of sample RAM, an i16 sample (R7). -/
abbrev Half := BitVec 16

/-- A 20-bit word address of sample RAM (R3 `ADDR_BITS`, 20_memory.md R63). -/
abbrev Addr := BitVec 20

/-- A per-voice mask: bit v belongs to voice v (10_state.md R31, R46). -/
abbrev VoiceMask := BitVec 24

/-- A voice number, 0..23 (R3 `NVOICES`). -/
abbrev VoiceId := Fin 24

/-- The 28 samples of one decoded ADPCM block (R3 `BLOCK_SAMPLES`). -/
abbrev Block := Vector Half 28

end Sys2Proof
end

