-- ==== Sys2Proof/Syntax.lean ====
section
/-! DEFINITION. The instructions of SPU2-CORE, whole: one constructor of `Instr` per row of opcode_table.json, and the names of
the registers they act on (10_state.md R41 to R53). Bits a command ignores (30_encoding.md R98 b) are no part of the syntax: two
words that differ only there are the same command (notes/assumptions/10.md). -/

namespace Sys2Proof

/-- The `core` field of a command (30_encoding.md R92): core 0 or core 1 (60_exceptions.md R313). -/
inductive CoreId where
  | c0
  | c1
deriving DecidableEq, Repr, Inhabited

/-- The 14 registers of a voice block, k = 0..13 in order (10_state.md R42). -/
inductive VoiceReg where
  | voll
  | volr
  | pitch
  | adsr1
  | adsr2
  | envx
  | ssaHi
  | ssaLo
  | lsaHi
  | lsaLo
  | naxHi
  | naxLo
  | volxl
  | volxr
deriving DecidableEq, Repr, Inhabited

/-- The 24 reverb offsets, number k = 0..23 in order (10_state.md R35, R51). -/
inductive RevOff where
  | iirSrcA0
  | iirSrcA1
  | iirSrcB0
  | iirSrcB1
  | iirDestA0
  | iirDestA1
  | iirDestB0
  | iirDestB1
  | accSrcA0
  | accSrcA1
  | accSrcB0
  | accSrcB1
  | accSrcC0
  | accSrcC1
  | accSrcD0
  | accSrcD1
  | fbSrcA0
  | fbSrcA1
  | fbSrcB0
  | fbSrcB1
  | mixDestA0
  | mixDestA1
  | mixDestB0
  | mixDestB1
deriving DecidableEq, Repr, Inhabited

/-- The 10 reverb coefficients, 0x1F0 + k in order (10_state.md R35, R52). -/
inductive RevCoef where
  | iirAlpha
  | iirCoef
  | inCoefL
  | inCoefR
  | accCoefA
  | accCoefB
  | accCoefC
  | accCoefD
  | fbAlpha
  | fbX
deriving DecidableEq, Repr, Inhabited

/-- The 96 registers of a core beside its voice blocks: the globals 0x180..0x1A5 in order (10_state.md R47), the two halves of
each reverb offset (R51), the reverb coefficients (R52). -/
inductive CoreReg where
  | pmonLo
  | pmonHi
  | nonLo
  | nonHi
  | vmixlLo
  | vmixlHi
  | vmixrLo
  | vmixrHi
  | vmixelLo
  | vmixelHi
  | vmixerLo
  | vmixerHi
  | mmix
  | attr
  | irqaHi
  | irqaLo
  | konLo
  | konHi
  | koffLo
  | koffHi
  | tsaHi
  | tsaLo
  | data
  | stat
  | endxLo
  | endxHi
  | mvoll
  | mvolr
  | evoll
  | evolr
  | ivoll
  | ivolr
  | mvolxl
  | mvolxr
  | esaHi
  | esaLo
  | eeaHi
  | eeaLo
  | offHi (k : RevOff)
  | offLo (k : RevOff)
  | coef (k : RevCoef)
deriving DecidableEq, Repr, Inhabited

/-- A register index that is not reserved names one of these (30_encoding.md R96). -/
inductive Reg where
  | voice (v : VoiceId) (r : VoiceReg)
  | core (r : CoreReg)
deriving DecidableEq, Repr

/-- The instructions: the rows of opcode_table.json in its order. Operands: `c` the core field, `v` the voice number
(constrained to 0..23 by the row), `d` the 16-bit data field, `reg` the register index of `RREG`, `n` the word count of `DMAW`. -/
inductive Instr where
  /-- `NOP` (45_commands.md R250). -/
  | nop
  /-- `WREG.V.VOLL` (45_commands.md R255). -/
  | wregVVoll (c : CoreId) (v : VoiceId) (d : Half)
  /-- `WREG.V.VOLR` (45_commands.md R255). -/
  | wregVVolr (c : CoreId) (v : VoiceId) (d : Half)
  /-- `WREG.V.PITCH` (45_commands.md R257). -/
  | wregVPitch (c : CoreId) (v : VoiceId) (d : Half)
  /-- `WREG.V.ADSR1` (45_commands.md R258). -/
  | wregVAdsr1 (c : CoreId) (v : VoiceId) (d : Half)
  /-- `WREG.V.ADSR2` (45_commands.md R259). -/
  | wregVAdsr2 (c : CoreId) (v : VoiceId) (d : Half)
  /-- `WREG.V.ENVX` (45_commands.md R254). -/
  | wregVEnvx (c : CoreId) (v : VoiceId) (d : Half)
  /-- `WREG.V.SSA_HI` (45_commands.md R260). -/
  | wregVSsaHi (c : CoreId) (v : VoiceId) (d : Half)
  /-- `WREG.V.SSA_LO` (45_commands.md R260). -/
  | wregVSsaLo (c : CoreId) (v : VoiceId) (d : Half)
  /-- `WREG.V.LSA_HI` (45_commands.md R261). -/
  | wregVLsaHi (c : CoreId) (v : VoiceId) (d : Half)
  /-- `WREG.V.LSA_LO` (45_commands.md R261). -/
  | wregVLsaLo (c : CoreId) (v : VoiceId) (d : Half)
  /-- `WREG.V.NAX_HI` (45_commands.md R262). -/
  | wregVNaxHi (c : CoreId) (v : VoiceId) (d : Half)
  /-- `WREG.V.NAX_LO` (45_commands.md R262). -/
  | wregVNaxLo (c : CoreId) (v : VoiceId) (d : Half)
  /-- `WREG.V.VOLXL` (45_commands.md R254). -/
  | wregVVolxl (c : CoreId) (v : VoiceId) (d : Half)
  /-- `WREG.V.VOLXR` (45_commands.md R254). -/
  | wregVVolxr (c : CoreId) (v : VoiceId) (d : Half)
  /-- `WREG.PMON_LO` (45_commands.md R263). -/
  | wregPmonLo (c : CoreId) (d : Half)
  /-- `WREG.PMON_HI` (45_commands.md R263). -/
  | wregPmonHi (c : CoreId) (d : Half)
  /-- `WREG.NON_LO` (45_commands.md R264). -/
  | wregNonLo (c : CoreId) (d : Half)
  /-- `WREG.NON_HI` (45_commands.md R264). -/
  | wregNonHi (c : CoreId) (d : Half)
  /-- `WREG.VMIXL_LO` (45_commands.md R265). -/
  | wregVmixlLo (c : CoreId) (d : Half)
  /-- `WREG.VMIXL_HI` (45_commands.md R265). -/
  | wregVmixlHi (c : CoreId) (d : Half)
  /-- `WREG.VMIXR_LO` (45_commands.md R266). -/
  | wregVmixrLo (c : CoreId) (d : Half)
  /-- `WREG.VMIXR_HI` (45_commands.md R266). -/
  | wregVmixrHi (c : CoreId) (d : Half)
  /-- `WREG.VMIXEL_LO` (45_commands.md R267). -/
  | wregVmixelLo (c : CoreId) (d : Half)
  /-- `WREG.VMIXEL_HI` (45_commands.md R267). -/
  | wregVmixelHi (c : CoreId) (d : Half)
  /-- `WREG.VMIXER_LO` (45_commands.md R268). -/
  | wregVmixerLo (c : CoreId) (d : Half)
  /-- `WREG.VMIXER_HI` (45_commands.md R268). -/
  | wregVmixerHi (c : CoreId) (d : Half)
  /-- `WREG.MMIX` (45_commands.md R269). -/
  | wregMmix (c : CoreId) (d : Half)
  /-- `WREG.ATTR` (45_commands.md R270). -/
  | wregAttr (c : CoreId) (d : Half)
  /-- `WREG.IRQA_HI` (45_commands.md R275). -/
  | wregIrqaHi (c : CoreId) (d : Half)
  /-- `WREG.IRQA_LO` (45_commands.md R275). -/
  | wregIrqaLo (c : CoreId) (d : Half)
  /-- `WREG.KON_LO` (45_commands.md R271). -/
  | wregKonLo (c : CoreId) (d : Half)
  /-- `WREG.KON_HI` (45_commands.md R272). -/
  | wregKonHi (c : CoreId) (d : Half)
  /-- `WREG.KOFF_LO` (45_commands.md R273). -/
  | wregKoffLo (c : CoreId) (d : Half)
  /-- `WREG.KOFF_HI` (45_commands.md R274). -/
  | wregKoffHi (c : CoreId) (d : Half)
  /-- `WREG.TSA_HI` (45_commands.md R276). -/
  | wregTsaHi (c : CoreId) (d : Half)
  /-- `WREG.TSA_LO` (45_commands.md R276). -/
  | wregTsaLo (c : CoreId) (d : Half)
  /-- `WREG.DATA` (45_commands.md R281). -/
  | wregData (c : CoreId) (d : Half)
  /-- `WREG.STAT` (45_commands.md R254). -/
  | wregStat (c : CoreId) (d : Half)
  /-- `WREG.ENDX_LO` (45_commands.md R277). -/
  | wregEndxLo (c : CoreId) (d : Half)
  /-- `WREG.ENDX_HI` (45_commands.md R277). -/
  | wregEndxHi (c : CoreId) (d : Half)
  /-- `WREG.MVOLL` (45_commands.md R278). -/
  | wregMvoll (c : CoreId) (d : Half)
  /-- `WREG.MVOLR` (45_commands.md R278). -/
  | wregMvolr (c : CoreId) (d : Half)
  /-- `WREG.EVOLL` (45_commands.md R278). -/
  | wregEvoll (c : CoreId) (d : Half)
  /-- `WREG.EVOLR` (45_commands.md R278). -/
  | wregEvolr (c : CoreId) (d : Half)
  /-- `WREG.IVOLL` (45_commands.md R278). -/
  | wregIvoll (c : CoreId) (d : Half)
  /-- `WREG.IVOLR` (45_commands.md R278). -/
  | wregIvolr (c : CoreId) (d : Half)
  /-- `WREG.MVOLXL` (45_commands.md R254). -/
  | wregMvolxl (c : CoreId) (d : Half)
  /-- `WREG.MVOLXR` (45_commands.md R254). -/
  | wregMvolxr (c : CoreId) (d : Half)
  /-- `WREG.ESA_HI` (45_commands.md R279). -/
  | wregEsaHi (c : CoreId) (d : Half)
  /-- `WREG.ESA_LO` (45_commands.md R279). -/
  | wregEsaLo (c : CoreId) (d : Half)
  /-- `WREG.EEA_HI` (45_commands.md R279). -/
  | wregEeaHi (c : CoreId) (d : Half)
  /-- `WREG.EEA_LO` (45_commands.md R279). -/
  | wregEeaLo (c : CoreId) (d : Half)
  /-- `WREG.IIR_SRC_A0_HI` (45_commands.md R280). -/
  | wregIirSrcA0Hi (c : CoreId) (d : Half)
  /-- `WREG.IIR_SRC_A0_LO` (45_commands.md R280). -/
  | wregIirSrcA0Lo (c : CoreId) (d : Half)
  /-- `WREG.IIR_SRC_A1_HI` (45_commands.md R280). -/
  | wregIirSrcA1Hi (c : CoreId) (d : Half)
  /-- `WREG.IIR_SRC_A1_LO` (45_commands.md R280). -/
  | wregIirSrcA1Lo (c : CoreId) (d : Half)
  /-- `WREG.IIR_SRC_B0_HI` (45_commands.md R280). -/
  | wregIirSrcB0Hi (c : CoreId) (d : Half)
  /-- `WREG.IIR_SRC_B0_LO` (45_commands.md R280). -/
  | wregIirSrcB0Lo (c : CoreId) (d : Half)
  /-- `WREG.IIR_SRC_B1_HI` (45_commands.md R280). -/
  | wregIirSrcB1Hi (c : CoreId) (d : Half)
  /-- `WREG.IIR_SRC_B1_LO` (45_commands.md R280). -/
  | wregIirSrcB1Lo (c : CoreId) (d : Half)
  /-- `WREG.IIR_DEST_A0_HI` (45_commands.md R280). -/
  | wregIirDestA0Hi (c : CoreId) (d : Half)
  /-- `WREG.IIR_DEST_A0_LO` (45_commands.md R280). -/
  | wregIirDestA0Lo (c : CoreId) (d : Half)
  /-- `WREG.IIR_DEST_A1_HI` (45_commands.md R280). -/
  | wregIirDestA1Hi (c : CoreId) (d : Half)
  /-- `WREG.IIR_DEST_A1_LO` (45_commands.md R280). -/
  | wregIirDestA1Lo (c : CoreId) (d : Half)
  /-- `WREG.IIR_DEST_B0_HI` (45_commands.md R280). -/
  | wregIirDestB0Hi (c : CoreId) (d : Half)
  /-- `WREG.IIR_DEST_B0_LO` (45_commands.md R280). -/
  | wregIirDestB0Lo (c : CoreId) (d : Half)
  /-- `WREG.IIR_DEST_B1_HI` (45_commands.md R280). -/
  | wregIirDestB1Hi (c : CoreId) (d : Half)
  /-- `WREG.IIR_DEST_B1_LO` (45_commands.md R280). -/
  | wregIirDestB1Lo (c : CoreId) (d : Half)
  /-- `WREG.ACC_SRC_A0_HI` (45_commands.md R280). -/
  | wregAccSrcA0Hi (c : CoreId) (d : Half)
  /-- `WREG.ACC_SRC_A0_LO` (45_commands.md R280). -/
  | wregAccSrcA0Lo (c : CoreId) (d : Half)
  /-- `WREG.ACC_SRC_A1_HI` (45_commands.md R280). -/
  | wregAccSrcA1Hi (c : CoreId) (d : Half)
  /-- `WREG.ACC_SRC_A1_LO` (45_commands.md R280). -/
  | wregAccSrcA1Lo (c : CoreId) (d : Half)
  /-- `WREG.ACC_SRC_B0_HI` (45_commands.md R280). -/
  | wregAccSrcB0Hi (c : CoreId) (d : Half)
  /-- `WREG.ACC_SRC_B0_LO` (45_commands.md R280). -/
  | wregAccSrcB0Lo (c : CoreId) (d : Half)
  /-- `WREG.ACC_SRC_B1_HI` (45_commands.md R280). -/
  | wregAccSrcB1Hi (c : CoreId) (d : Half)
  /-- `WREG.ACC_SRC_B1_LO` (45_commands.md R280). -/
  | wregAccSrcB1Lo (c : CoreId) (d : Half)
  /-- `WREG.ACC_SRC_C0_HI` (45_commands.md R280). -/
  | wregAccSrcC0Hi (c : CoreId) (d : Half)
  /-- `WREG.ACC_SRC_C0_LO` (45_commands.md R280). -/
  | wregAccSrcC0Lo (c : CoreId) (d : Half)
  /-- `WREG.ACC_SRC_C1_HI` (45_commands.md R280). -/
  | wregAccSrcC1Hi (c : CoreId) (d : Half)
  /-- `WREG.ACC_SRC_C1_LO` (45_commands.md R280). -/
  | wregAccSrcC1Lo (c : CoreId) (d : Half)
  /-- `WREG.ACC_SRC_D0_HI` (45_commands.md R280). -/
  | wregAccSrcD0Hi (c : CoreId) (d : Half)
  /-- `WREG.ACC_SRC_D0_LO` (45_commands.md R280). -/
  | wregAccSrcD0Lo (c : CoreId) (d : Half)
  /-- `WREG.ACC_SRC_D1_HI` (45_commands.md R280). -/
  | wregAccSrcD1Hi (c : CoreId) (d : Half)
  /-- `WREG.ACC_SRC_D1_LO` (45_commands.md R280). -/
  | wregAccSrcD1Lo (c : CoreId) (d : Half)
  /-- `WREG.FB_SRC_A0_HI` (45_commands.md R280). -/
  | wregFbSrcA0Hi (c : CoreId) (d : Half)
  /-- `WREG.FB_SRC_A0_LO` (45_commands.md R280). -/
  | wregFbSrcA0Lo (c : CoreId) (d : Half)
  /-- `WREG.FB_SRC_A1_HI` (45_commands.md R280). -/
  | wregFbSrcA1Hi (c : CoreId) (d : Half)
  /-- `WREG.FB_SRC_A1_LO` (45_commands.md R280). -/
  | wregFbSrcA1Lo (c : CoreId) (d : Half)
  /-- `WREG.FB_SRC_B0_HI` (45_commands.md R280). -/
  | wregFbSrcB0Hi (c : CoreId) (d : Half)
  /-- `WREG.FB_SRC_B0_LO` (45_commands.md R280). -/
  | wregFbSrcB0Lo (c : CoreId) (d : Half)
  /-- `WREG.FB_SRC_B1_HI` (45_commands.md R280). -/
  | wregFbSrcB1Hi (c : CoreId) (d : Half)
  /-- `WREG.FB_SRC_B1_LO` (45_commands.md R280). -/
  | wregFbSrcB1Lo (c : CoreId) (d : Half)
  /-- `WREG.MIX_DEST_A0_HI` (45_commands.md R280). -/
  | wregMixDestA0Hi (c : CoreId) (d : Half)
  /-- `WREG.MIX_DEST_A0_LO` (45_commands.md R280). -/
  | wregMixDestA0Lo (c : CoreId) (d : Half)
  /-- `WREG.MIX_DEST_A1_HI` (45_commands.md R280). -/
  | wregMixDestA1Hi (c : CoreId) (d : Half)
  /-- `WREG.MIX_DEST_A1_LO` (45_commands.md R280). -/
  | wregMixDestA1Lo (c : CoreId) (d : Half)
  /-- `WREG.MIX_DEST_B0_HI` (45_commands.md R280). -/
  | wregMixDestB0Hi (c : CoreId) (d : Half)
  /-- `WREG.MIX_DEST_B0_LO` (45_commands.md R280). -/
  | wregMixDestB0Lo (c : CoreId) (d : Half)
  /-- `WREG.MIX_DEST_B1_HI` (45_commands.md R280). -/
  | wregMixDestB1Hi (c : CoreId) (d : Half)
  /-- `WREG.MIX_DEST_B1_LO` (45_commands.md R280). -/
  | wregMixDestB1Lo (c : CoreId) (d : Half)
  /-- `WREG.IIR_ALPHA` (45_commands.md R282). -/
  | wregIirAlpha (c : CoreId) (d : Half)
  /-- `WREG.IIR_COEF` (45_commands.md R282). -/
  | wregIirCoef (c : CoreId) (d : Half)
  /-- `WREG.IN_COEF_L` (45_commands.md R282). -/
  | wregInCoefL (c : CoreId) (d : Half)
  /-- `WREG.IN_COEF_R` (45_commands.md R282). -/
  | wregInCoefR (c : CoreId) (d : Half)
  /-- `WREG.ACC_COEF_A` (45_commands.md R282). -/
  | wregAccCoefA (c : CoreId) (d : Half)
  /-- `WREG.ACC_COEF_B` (45_commands.md R282). -/
  | wregAccCoefB (c : CoreId) (d : Half)
  /-- `WREG.ACC_COEF_C` (45_commands.md R282). -/
  | wregAccCoefC (c : CoreId) (d : Half)
  /-- `WREG.ACC_COEF_D` (45_commands.md R282). -/
  | wregAccCoefD (c : CoreId) (d : Half)
  /-- `WREG.FB_ALPHA` (45_commands.md R282). -/
  | wregFbAlpha (c : CoreId) (d : Half)
  /-- `WREG.FB_X` (45_commands.md R282). -/
  | wregFbX (c : CoreId) (d : Half)
  /-- `RREG` (45_commands.md R283). -/
  | rreg (c : CoreId) (reg : BitVec 9)
  /-- `DMAW` (45_commands.md R284). -/
  | dmaw (c : CoreId) (n : Half)
  /-- `TICK` (45_commands.md R290). -/
  | tick
  /-- `RESET` (45_commands.md R252). -/
  | reset
deriving DecidableEq, Repr

end Sys2Proof
end

