-- ==== Sys2Proof/WellFormed.lean ====
section
/-! DEFINITION. Which instructions are well formed: what the opcode table's constraints ask beyond the operands' types. The
voice number's constraint (0..23) is in its type, so the one check left is `RREG`'s: its register index is not reserved. -/

namespace Sys2Proof

/-- The reserved register indices (10_state.md R53): `v*16 + 14`, `v*16 + 15` for v in 0..23, 0x1A6..0x1BF, 0x1FA..0x1FF. -/
def reservedIndex (reg : BitVec 9) : Bool :=
  (reg.toNat < 0x180 && 14 ≤ reg.toNat % 16)
    || (0x1A6 ≤ reg.toNat && reg.toNat ≤ 0x1BF)
    || 0x1FA ≤ reg.toNat

/-- An instruction its row of opcode_table.json admits (30_encoding.md R102, key `constraint`). -/
def Instr.wellFormed : Instr → Bool
  | .rreg _ reg => !reservedIndex reg
  | .nop | .wregVVoll _ _ _ | .wregVVolr _ _ _ | .wregVPitch _ _ _ | .wregVAdsr1 _ _ _ | .wregVAdsr2 _ _ _
  | .wregVEnvx _ _ _ | .wregVSsaHi _ _ _ | .wregVSsaLo _ _ _ | .wregVLsaHi _ _ _ | .wregVLsaLo _ _ _
  | .wregVNaxHi _ _ _ | .wregVNaxLo _ _ _ | .wregVVolxl _ _ _ | .wregVVolxr _ _ _ | .wregPmonLo _ _ | .wregPmonHi _ _
  | .wregNonLo _ _ | .wregNonHi _ _ | .wregVmixlLo _ _ | .wregVmixlHi _ _ | .wregVmixrLo _ _ | .wregVmixrHi _ _
  | .wregVmixelLo _ _ | .wregVmixelHi _ _ | .wregVmixerLo _ _ | .wregVmixerHi _ _ | .wregMmix _ _ | .wregAttr _ _
  | .wregIrqaHi _ _ | .wregIrqaLo _ _ | .wregKonLo _ _ | .wregKonHi _ _ | .wregKoffLo _ _ | .wregKoffHi _ _
  | .wregTsaHi _ _ | .wregTsaLo _ _ | .wregData _ _ | .wregStat _ _ | .wregEndxLo _ _ | .wregEndxHi _ _
  | .wregMvoll _ _ | .wregMvolr _ _ | .wregEvoll _ _ | .wregEvolr _ _ | .wregIvoll _ _ | .wregIvolr _ _
  | .wregMvolxl _ _ | .wregMvolxr _ _ | .wregEsaHi _ _ | .wregEsaLo _ _ | .wregEeaHi _ _ | .wregEeaLo _ _
  | .wregIirSrcA0Hi _ _ | .wregIirSrcA0Lo _ _ | .wregIirSrcA1Hi _ _ | .wregIirSrcA1Lo _ _ | .wregIirSrcB0Hi _ _
  | .wregIirSrcB0Lo _ _ | .wregIirSrcB1Hi _ _ | .wregIirSrcB1Lo _ _ | .wregIirDestA0Hi _ _ | .wregIirDestA0Lo _ _
  | .wregIirDestA1Hi _ _ | .wregIirDestA1Lo _ _ | .wregIirDestB0Hi _ _ | .wregIirDestB0Lo _ _ | .wregIirDestB1Hi _ _
  | .wregIirDestB1Lo _ _ | .wregAccSrcA0Hi _ _ | .wregAccSrcA0Lo _ _ | .wregAccSrcA1Hi _ _ | .wregAccSrcA1Lo _ _
  | .wregAccSrcB0Hi _ _ | .wregAccSrcB0Lo _ _ | .wregAccSrcB1Hi _ _ | .wregAccSrcB1Lo _ _ | .wregAccSrcC0Hi _ _
  | .wregAccSrcC0Lo _ _ | .wregAccSrcC1Hi _ _ | .wregAccSrcC1Lo _ _ | .wregAccSrcD0Hi _ _ | .wregAccSrcD0Lo _ _
  | .wregAccSrcD1Hi _ _ | .wregAccSrcD1Lo _ _ | .wregFbSrcA0Hi _ _ | .wregFbSrcA0Lo _ _ | .wregFbSrcA1Hi _ _
  | .wregFbSrcA1Lo _ _ | .wregFbSrcB0Hi _ _ | .wregFbSrcB0Lo _ _ | .wregFbSrcB1Hi _ _ | .wregFbSrcB1Lo _ _
  | .wregMixDestA0Hi _ _ | .wregMixDestA0Lo _ _ | .wregMixDestA1Hi _ _ | .wregMixDestA1Lo _ _ | .wregMixDestB0Hi _ _
  | .wregMixDestB0Lo _ _ | .wregMixDestB1Hi _ _ | .wregMixDestB1Lo _ _ | .wregIirAlpha _ _ | .wregIirCoef _ _
  | .wregInCoefL _ _ | .wregInCoefR _ _ | .wregAccCoefA _ _ | .wregAccCoefB _ _ | .wregAccCoefC _ _
  | .wregAccCoefD _ _ | .wregFbAlpha _ _ | .wregFbX _ _ | .dmaw _ _ | .tick | .reset => true

end Sys2Proof
end

