-- ==== Sys2Proof/Decode.lean ====
section
/-! DEFINITION. The decoder of a command word (30_encoding.md R92 to R98), total on every 32-bit word and rejecting by name, and
after it the encoder, written from the rows of opcode_table.json. A payload word is never decoded: the step tells it by the state
(R94). -/

namespace Sys2Proof

/-- Why a command word is illegal (30_encoding.md R95, 60_exceptions.md R300). -/
inductive DecodeError where
  /-- `op` in 6..15. -/
  | reservedOpcode
  /-- bits [27:26] not 0, or `DMAW` with `reg` not 0. -/
  | reservedBits
  /-- `WREG` or `RREG` of a reserved register index. -/
  | reservedRegister
deriving DecidableEq, Repr

/-- The illegal-command codes 1, 2, 3 (60_exceptions.md R300). -/
def DecodeError.code : DecodeError → BitVec 2
  | .reservedOpcode => 1#2
  | .reservedBits => 2#2
  | .reservedRegister => 3#2

/-! ## The fields of a command word (30_encoding.md R92) -/

def opField (w : CmdWord) : BitVec 4 := w.extractLsb' 28 4
def zField (w : CmdWord) : BitVec 2 := w.extractLsb' 26 2
def coreField (w : CmdWord) : CoreId := if w.getLsbD 25 then .c1 else .c0
def regField (w : CmdWord) : BitVec 9 := w.extractLsb' 16 9
def dataField (w : CmdWord) : Half := w.extractLsb' 0 16

/-! ## Register selection (30_encoding.md R96; 10_state.md R42, R47, R51, R52) -/

/-- The voice registers by k = 0..13 (10_state.md R42). -/
def voiceRegs : List VoiceReg :=
  [.voll, .volr, .pitch, .adsr1, .adsr2, .envx, .ssaHi, .ssaLo, .lsaHi, .lsaLo, .naxHi, .naxLo, .volxl, .volxr]

/-- The core globals by index - 0x180 (10_state.md R47). -/
def globalRegs : List CoreReg :=
  [.pmonLo, .pmonHi, .nonLo, .nonHi, .vmixlLo, .vmixlHi, .vmixrLo, .vmixrHi, .vmixelLo, .vmixelHi, .vmixerLo,
   .vmixerHi, .mmix, .attr, .irqaHi, .irqaLo, .konLo, .konHi, .koffLo, .koffHi, .tsaHi, .tsaLo, .data, .stat,
   .endxLo, .endxHi, .mvoll, .mvolr, .evoll, .evolr, .ivoll, .ivolr, .mvolxl, .mvolxr, .esaHi, .esaLo, .eeaHi,
   .eeaLo]

/-- The reverb offsets by number (10_state.md R51). -/
def revOffs : List RevOff :=
  [.iirSrcA0, .iirSrcA1, .iirSrcB0, .iirSrcB1, .iirDestA0, .iirDestA1, .iirDestB0, .iirDestB1, .accSrcA0,
   .accSrcA1, .accSrcB0, .accSrcB1, .accSrcC0, .accSrcC1, .accSrcD0, .accSrcD1, .fbSrcA0, .fbSrcA1, .fbSrcB0,
   .fbSrcB1, .mixDestA0, .mixDestA1, .mixDestB0, .mixDestB1]

/-- The reverb coefficients by index - 0x1F0 (10_state.md R52). -/
def revCoefs : List RevCoef :=
  [.iirAlpha, .iirCoef, .inCoefL, .inCoefR, .accCoefA, .accCoefB, .accCoefC, .accCoefD, .fbAlpha, .fbX]

/-- The register of an index, none where the index is reserved (30_encoding.md R96, 10_state.md R41, R53). -/
def regOfIndex (reg : BitVec 9) : Option Reg :=
  let i := reg.toNat
  if h : i / 16 < 24 then
    voiceRegs[i % 16]?.map (Reg.voice ⟨i / 16, h⟩)
  else if i < 0x1C0 then
    globalRegs[i - 0x180]?.map Reg.core
  else if i < 0x1F0 then
    revOffs[(i - 0x1C0) / 2]?.map fun k => Reg.core (if i % 2 = 0 then .offHi k else .offLo k)
  else
    revCoefs[i - 0x1F0]?.map fun k => Reg.core (.coef k)

/-- The `WREG` of a voice register. -/
def wregVoiceInstr (r : VoiceReg) (c : CoreId) (v : VoiceId) (d : Half) : Instr :=
  match r with
  | .voll => .wregVVoll c v d
  | .volr => .wregVVolr c v d
  | .pitch => .wregVPitch c v d
  | .adsr1 => .wregVAdsr1 c v d
  | .adsr2 => .wregVAdsr2 c v d
  | .envx => .wregVEnvx c v d
  | .ssaHi => .wregVSsaHi c v d
  | .ssaLo => .wregVSsaLo c v d
  | .lsaHi => .wregVLsaHi c v d
  | .lsaLo => .wregVLsaLo c v d
  | .naxHi => .wregVNaxHi c v d
  | .naxLo => .wregVNaxLo c v d
  | .volxl => .wregVVolxl c v d
  | .volxr => .wregVVolxr c v d

/-- The `WREG` of the high half of a reverb offset. -/
def wregOffHiInstr (k : RevOff) (c : CoreId) (d : Half) : Instr :=
  match k with
  | .iirSrcA0 => .wregIirSrcA0Hi c d
  | .iirSrcA1 => .wregIirSrcA1Hi c d
  | .iirSrcB0 => .wregIirSrcB0Hi c d
  | .iirSrcB1 => .wregIirSrcB1Hi c d
  | .iirDestA0 => .wregIirDestA0Hi c d
  | .iirDestA1 => .wregIirDestA1Hi c d
  | .iirDestB0 => .wregIirDestB0Hi c d
  | .iirDestB1 => .wregIirDestB1Hi c d
  | .accSrcA0 => .wregAccSrcA0Hi c d
  | .accSrcA1 => .wregAccSrcA1Hi c d
  | .accSrcB0 => .wregAccSrcB0Hi c d
  | .accSrcB1 => .wregAccSrcB1Hi c d
  | .accSrcC0 => .wregAccSrcC0Hi c d
  | .accSrcC1 => .wregAccSrcC1Hi c d
  | .accSrcD0 => .wregAccSrcD0Hi c d
  | .accSrcD1 => .wregAccSrcD1Hi c d
  | .fbSrcA0 => .wregFbSrcA0Hi c d
  | .fbSrcA1 => .wregFbSrcA1Hi c d
  | .fbSrcB0 => .wregFbSrcB0Hi c d
  | .fbSrcB1 => .wregFbSrcB1Hi c d
  | .mixDestA0 => .wregMixDestA0Hi c d
  | .mixDestA1 => .wregMixDestA1Hi c d
  | .mixDestB0 => .wregMixDestB0Hi c d
  | .mixDestB1 => .wregMixDestB1Hi c d

/-- The `WREG` of the low half of a reverb offset. -/
def wregOffLoInstr (k : RevOff) (c : CoreId) (d : Half) : Instr :=
  match k with
  | .iirSrcA0 => .wregIirSrcA0Lo c d
  | .iirSrcA1 => .wregIirSrcA1Lo c d
  | .iirSrcB0 => .wregIirSrcB0Lo c d
  | .iirSrcB1 => .wregIirSrcB1Lo c d
  | .iirDestA0 => .wregIirDestA0Lo c d
  | .iirDestA1 => .wregIirDestA1Lo c d
  | .iirDestB0 => .wregIirDestB0Lo c d
  | .iirDestB1 => .wregIirDestB1Lo c d
  | .accSrcA0 => .wregAccSrcA0Lo c d
  | .accSrcA1 => .wregAccSrcA1Lo c d
  | .accSrcB0 => .wregAccSrcB0Lo c d
  | .accSrcB1 => .wregAccSrcB1Lo c d
  | .accSrcC0 => .wregAccSrcC0Lo c d
  | .accSrcC1 => .wregAccSrcC1Lo c d
  | .accSrcD0 => .wregAccSrcD0Lo c d
  | .accSrcD1 => .wregAccSrcD1Lo c d
  | .fbSrcA0 => .wregFbSrcA0Lo c d
  | .fbSrcA1 => .wregFbSrcA1Lo c d
  | .fbSrcB0 => .wregFbSrcB0Lo c d
  | .fbSrcB1 => .wregFbSrcB1Lo c d
  | .mixDestA0 => .wregMixDestA0Lo c d
  | .mixDestA1 => .wregMixDestA1Lo c d
  | .mixDestB0 => .wregMixDestB0Lo c d
  | .mixDestB1 => .wregMixDestB1Lo c d

/-- The `WREG` of a reverb coefficient. -/
def wregCoefInstr (k : RevCoef) (c : CoreId) (d : Half) : Instr :=
  match k with
  | .iirAlpha => .wregIirAlpha c d
  | .iirCoef => .wregIirCoef c d
  | .inCoefL => .wregInCoefL c d
  | .inCoefR => .wregInCoefR c d
  | .accCoefA => .wregAccCoefA c d
  | .accCoefB => .wregAccCoefB c d
  | .accCoefC => .wregAccCoefC c d
  | .accCoefD => .wregAccCoefD c d
  | .fbAlpha => .wregFbAlpha c d
  | .fbX => .wregFbX c d

/-- The `WREG` of a register that is not a voice's. -/
def wregCoreInstr (r : CoreReg) (c : CoreId) (d : Half) : Instr :=
  match r with
  | .pmonLo => .wregPmonLo c d
  | .pmonHi => .wregPmonHi c d
  | .nonLo => .wregNonLo c d
  | .nonHi => .wregNonHi c d
  | .vmixlLo => .wregVmixlLo c d
  | .vmixlHi => .wregVmixlHi c d
  | .vmixrLo => .wregVmixrLo c d
  | .vmixrHi => .wregVmixrHi c d
  | .vmixelLo => .wregVmixelLo c d
  | .vmixelHi => .wregVmixelHi c d
  | .vmixerLo => .wregVmixerLo c d
  | .vmixerHi => .wregVmixerHi c d
  | .mmix => .wregMmix c d
  | .attr => .wregAttr c d
  | .irqaHi => .wregIrqaHi c d
  | .irqaLo => .wregIrqaLo c d
  | .konLo => .wregKonLo c d
  | .konHi => .wregKonHi c d
  | .koffLo => .wregKoffLo c d
  | .koffHi => .wregKoffHi c d
  | .tsaHi => .wregTsaHi c d
  | .tsaLo => .wregTsaLo c d
  | .data => .wregData c d
  | .stat => .wregStat c d
  | .endxLo => .wregEndxLo c d
  | .endxHi => .wregEndxHi c d
  | .mvoll => .wregMvoll c d
  | .mvolr => .wregMvolr c d
  | .evoll => .wregEvoll c d
  | .evolr => .wregEvolr c d
  | .ivoll => .wregIvoll c d
  | .ivolr => .wregIvolr c d
  | .mvolxl => .wregMvolxl c d
  | .mvolxr => .wregMvolxr c d
  | .esaHi => .wregEsaHi c d
  | .esaLo => .wregEsaLo c d
  | .eeaHi => .wregEeaHi c d
  | .eeaLo => .wregEeaLo c d
  | .offHi k => wregOffHiInstr k c d
  | .offLo k => wregOffLoInstr k c d
  | .coef k => wregCoefInstr k c d

/-! ## The decoder -/

/-- `WREG` and `RREG` after the checks on `z` (30_encoding.md R95 step 5). -/
def decodeWreg (w : CmdWord) : Except DecodeError Instr :=
  match regOfIndex (regField w) with
  | none => .error .reservedRegister
  | some (.voice v r) => .ok (wregVoiceInstr r (coreField w) v (dataField w))
  | some (.core r) => .ok (wregCoreInstr r (coreField w) (dataField w))

def decodeRreg (w : CmdWord) : Except DecodeError Instr :=
  match regOfIndex (regField w) with
  | none => .error .reservedRegister
  | some _ => .ok (.rreg (coreField w) (regField w))

/-- 30_encoding.md R95 step 4. -/
def decodeDmaw (w : CmdWord) : Except DecodeError Instr :=
  if regField w = 0#9 then .ok (.dmaw (coreField w) (dataField w)) else .error .reservedBits

/-- The decode procedure of 30_encoding.md R95, in its order: the first failing check decides. -/
def decode (w : CmdWord) : Except DecodeError Instr :=
  if opField w = 0#4 then .ok .nop
  else if opField w = 4#4 then .ok .tick
  else if opField w = 5#4 then .ok .reset
  else if 6 ≤ (opField w).toNat then .error .reservedOpcode
  else if zField w ≠ 0#2 then .error .reservedBits
  else if opField w = 3#4 then decodeDmaw w
  else if opField w = 1#4 then decodeWreg w
  else decodeRreg w

/-- The instruction the decoder reads from a row's bits `w` (every row has one 32-bit word, so `nbits` is 32). -/
def decodeTableWord (_nbits w : Nat) : Option Instr :=
  (decode (BitVec.ofNat 32 w)).toOption

/-! ## The encoder (30_encoding.md R92, R93, and the rows' `match` in opcode_table.json) -/

def coreBit : CoreId → BitVec 1
  | .c0 => 0#1
  | .c1 => 1#1

/-- A word of format `CMD` with `z = 0`: op << 28 | core << 25 | reg << 16 | data (30_encoding.md R92). -/
def cmdWord (op : BitVec 4) (c : CoreId) (reg : BitVec 9) (d : Half) : CmdWord :=
  op ++ (0#2 ++ (coreBit c ++ (reg ++ d)))

def wregWord (c : CoreId) (reg : BitVec 9) (d : Half) : CmdWord := cmdWord 1#4 c reg d

/-- The index of register k of voice v: v in reg[8:4], k in reg[3:0] (30_encoding.md R96). -/
def voiceIndex (v : VoiceId) (k : BitVec 4) : BitVec 9 := BitVec.ofNat 5 v.val ++ k

/-- The command word of an instruction, its ignored bits 0. -/
def encode : Instr → CmdWord
  | .nop => 0x00000000#32
  | .wregVVoll c v d => wregWord c (voiceIndex v 0#4) d
  | .wregVVolr c v d => wregWord c (voiceIndex v 1#4) d
  | .wregVPitch c v d => wregWord c (voiceIndex v 2#4) d
  | .wregVAdsr1 c v d => wregWord c (voiceIndex v 3#4) d
  | .wregVAdsr2 c v d => wregWord c (voiceIndex v 4#4) d
  | .wregVEnvx c v d => wregWord c (voiceIndex v 5#4) d
  | .wregVSsaHi c v d => wregWord c (voiceIndex v 6#4) d
  | .wregVSsaLo c v d => wregWord c (voiceIndex v 7#4) d
  | .wregVLsaHi c v d => wregWord c (voiceIndex v 8#4) d
  | .wregVLsaLo c v d => wregWord c (voiceIndex v 9#4) d
  | .wregVNaxHi c v d => wregWord c (voiceIndex v 10#4) d
  | .wregVNaxLo c v d => wregWord c (voiceIndex v 11#4) d
  | .wregVVolxl c v d => wregWord c (voiceIndex v 12#4) d
  | .wregVVolxr c v d => wregWord c (voiceIndex v 13#4) d
  | .wregPmonLo c d => wregWord c 0x180#9 d
  | .wregPmonHi c d => wregWord c 0x181#9 d
  | .wregNonLo c d => wregWord c 0x182#9 d
  | .wregNonHi c d => wregWord c 0x183#9 d
  | .wregVmixlLo c d => wregWord c 0x184#9 d
  | .wregVmixlHi c d => wregWord c 0x185#9 d
  | .wregVmixrLo c d => wregWord c 0x186#9 d
  | .wregVmixrHi c d => wregWord c 0x187#9 d
  | .wregVmixelLo c d => wregWord c 0x188#9 d
  | .wregVmixelHi c d => wregWord c 0x189#9 d
  | .wregVmixerLo c d => wregWord c 0x18A#9 d
  | .wregVmixerHi c d => wregWord c 0x18B#9 d
  | .wregMmix c d => wregWord c 0x18C#9 d
  | .wregAttr c d => wregWord c 0x18D#9 d
  | .wregIrqaHi c d => wregWord c 0x18E#9 d
  | .wregIrqaLo c d => wregWord c 0x18F#9 d
  | .wregKonLo c d => wregWord c 0x190#9 d
  | .wregKonHi c d => wregWord c 0x191#9 d
  | .wregKoffLo c d => wregWord c 0x192#9 d
  | .wregKoffHi c d => wregWord c 0x193#9 d
  | .wregTsaHi c d => wregWord c 0x194#9 d
  | .wregTsaLo c d => wregWord c 0x195#9 d
  | .wregData c d => wregWord c 0x196#9 d
  | .wregStat c d => wregWord c 0x197#9 d
  | .wregEndxLo c d => wregWord c 0x198#9 d
  | .wregEndxHi c d => wregWord c 0x199#9 d
  | .wregMvoll c d => wregWord c 0x19A#9 d
  | .wregMvolr c d => wregWord c 0x19B#9 d
  | .wregEvoll c d => wregWord c 0x19C#9 d
  | .wregEvolr c d => wregWord c 0x19D#9 d
  | .wregIvoll c d => wregWord c 0x19E#9 d
  | .wregIvolr c d => wregWord c 0x19F#9 d
  | .wregMvolxl c d => wregWord c 0x1A0#9 d
  | .wregMvolxr c d => wregWord c 0x1A1#9 d
  | .wregEsaHi c d => wregWord c 0x1A2#9 d
  | .wregEsaLo c d => wregWord c 0x1A3#9 d
  | .wregEeaHi c d => wregWord c 0x1A4#9 d
  | .wregEeaLo c d => wregWord c 0x1A5#9 d
  | .wregIirSrcA0Hi c d => wregWord c 0x1C0#9 d
  | .wregIirSrcA0Lo c d => wregWord c 0x1C1#9 d
  | .wregIirSrcA1Hi c d => wregWord c 0x1C2#9 d
  | .wregIirSrcA1Lo c d => wregWord c 0x1C3#9 d
  | .wregIirSrcB0Hi c d => wregWord c 0x1C4#9 d
  | .wregIirSrcB0Lo c d => wregWord c 0x1C5#9 d
  | .wregIirSrcB1Hi c d => wregWord c 0x1C6#9 d
  | .wregIirSrcB1Lo c d => wregWord c 0x1C7#9 d
  | .wregIirDestA0Hi c d => wregWord c 0x1C8#9 d
  | .wregIirDestA0Lo c d => wregWord c 0x1C9#9 d
  | .wregIirDestA1Hi c d => wregWord c 0x1CA#9 d
  | .wregIirDestA1Lo c d => wregWord c 0x1CB#9 d
  | .wregIirDestB0Hi c d => wregWord c 0x1CC#9 d
  | .wregIirDestB0Lo c d => wregWord c 0x1CD#9 d
  | .wregIirDestB1Hi c d => wregWord c 0x1CE#9 d
  | .wregIirDestB1Lo c d => wregWord c 0x1CF#9 d
  | .wregAccSrcA0Hi c d => wregWord c 0x1D0#9 d
  | .wregAccSrcA0Lo c d => wregWord c 0x1D1#9 d
  | .wregAccSrcA1Hi c d => wregWord c 0x1D2#9 d
  | .wregAccSrcA1Lo c d => wregWord c 0x1D3#9 d
  | .wregAccSrcB0Hi c d => wregWord c 0x1D4#9 d
  | .wregAccSrcB0Lo c d => wregWord c 0x1D5#9 d
  | .wregAccSrcB1Hi c d => wregWord c 0x1D6#9 d
  | .wregAccSrcB1Lo c d => wregWord c 0x1D7#9 d
  | .wregAccSrcC0Hi c d => wregWord c 0x1D8#9 d
  | .wregAccSrcC0Lo c d => wregWord c 0x1D9#9 d
  | .wregAccSrcC1Hi c d => wregWord c 0x1DA#9 d
  | .wregAccSrcC1Lo c d => wregWord c 0x1DB#9 d
  | .wregAccSrcD0Hi c d => wregWord c 0x1DC#9 d
  | .wregAccSrcD0Lo c d => wregWord c 0x1DD#9 d
  | .wregAccSrcD1Hi c d => wregWord c 0x1DE#9 d
  | .wregAccSrcD1Lo c d => wregWord c 0x1DF#9 d
  | .wregFbSrcA0Hi c d => wregWord c 0x1E0#9 d
  | .wregFbSrcA0Lo c d => wregWord c 0x1E1#9 d
  | .wregFbSrcA1Hi c d => wregWord c 0x1E2#9 d
  | .wregFbSrcA1Lo c d => wregWord c 0x1E3#9 d
  | .wregFbSrcB0Hi c d => wregWord c 0x1E4#9 d
  | .wregFbSrcB0Lo c d => wregWord c 0x1E5#9 d
  | .wregFbSrcB1Hi c d => wregWord c 0x1E6#9 d
  | .wregFbSrcB1Lo c d => wregWord c 0x1E7#9 d
  | .wregMixDestA0Hi c d => wregWord c 0x1E8#9 d
  | .wregMixDestA0Lo c d => wregWord c 0x1E9#9 d
  | .wregMixDestA1Hi c d => wregWord c 0x1EA#9 d
  | .wregMixDestA1Lo c d => wregWord c 0x1EB#9 d
  | .wregMixDestB0Hi c d => wregWord c 0x1EC#9 d
  | .wregMixDestB0Lo c d => wregWord c 0x1ED#9 d
  | .wregMixDestB1Hi c d => wregWord c 0x1EE#9 d
  | .wregMixDestB1Lo c d => wregWord c 0x1EF#9 d
  | .wregIirAlpha c d => wregWord c 0x1F0#9 d
  | .wregIirCoef c d => wregWord c 0x1F1#9 d
  | .wregInCoefL c d => wregWord c 0x1F2#9 d
  | .wregInCoefR c d => wregWord c 0x1F3#9 d
  | .wregAccCoefA c d => wregWord c 0x1F4#9 d
  | .wregAccCoefB c d => wregWord c 0x1F5#9 d
  | .wregAccCoefC c d => wregWord c 0x1F6#9 d
  | .wregAccCoefD c d => wregWord c 0x1F7#9 d
  | .wregFbAlpha c d => wregWord c 0x1F8#9 d
  | .wregFbX c d => wregWord c 0x1F9#9 d
  | .rreg c reg => cmdWord 2#4 c reg 0#16
  | .dmaw c n => cmdWord 3#4 c 0#9 n
  | .tick => 0x40000000#32
  | .reset => 0x50000000#32

end Sys2Proof
end

