-- ==== Sys2Proof/Config.lean ====
section
/-! DEFINITION. The parameters the spec leaves open (00_scope.md R4, R5), as one record, and the one opaque instance
the machine runs with. A claim about the machine therefore holds for every legal instance (notes/assumptions/7.md). -/

namespace Sys2Proof

/-- The interpolation policies (00_scope.md R4, 41_voice_pipeline.md R154). -/
inductive Interp where
  | nearest
  | linear
  | cubic
deriving DecidableEq, Repr, Inhabited

/-- The configuration record of 00_scope.md R4 and R5. A numeric parameter carries the proof that it is in its legal range, a
function parameter the proofs of those required properties of R5 that are, or are read as, formulas. Three of R5's properties are
words without a formula, and are NOT carried as written: the "5 fixed predictor-coefficient pairs", the "24-bit
linear-feedback-shift-register", "a low-pass" (DESIGN CHOICE, safe: notes/assumptions/18.md). Of "a low-pass" the one formula the
spec gives is carried: silence is answered by 0 (DEDUCED from 44_reverb.md R236 b: notes/assumptions/19.md). A parameter whose range R5
gives as `>= 0` has the result type `Nat`, one in i16 range the result type `Half`. The defaults are a witness that a legal instance
exists and nothing else: `Config.chosen` is opaque, so no proof sees them. -/
structure Config where
  /-- `DYN_LINE`, the dynamic memory line: a word address, a multiple of 8 (R4, D10). -/
  dynLine : Nat := 0
  dynLine_le : dynLine ≤ 0x100000 := by decide
  dynLine_mod : dynLine % 8 = 0 := by decide
  /-- `INTERP` (R4, D16). -/
  interp : Interp := .nearest
  /-- `ADSR_SEED`, 1..0xffff (R4, D18). -/
  adsrSeed : BitVec 16 := 1#16
  adsrSeed_ne_zero : adsrSeed ≠ 0#16 := by decide
  /-- `NOISE_SEED`, 24 bits, not 0 (R4, D17). -/
  noiseSeed : BitVec 24 := 1#24
  noiseSeed_ne_zero : noiseSeed ≠ 0#24 := by decide
  /-- `OUT_RING_LEN`, at least 1 (R4, D32). -/
  outRingLen : Nat := 1
  outRingLen_pos : 0 < outRingLen := by decide
  /-- `mem_init`: what sample RAM holds at power-on (R4, D31). -/
  memInit : Addr → Half := fun _ => 0#16
  /-- `ADPCM_COEF`: the pair (c1, c2) of a predictor index (R5, 40_adpcm_cache.md R123). Any sixteen pairs are legal: the five of
  0..4 (notes/assumptions/18.md) and those of 5..15, which are (0, 0) in the reference instance (notes/assumptions/8.md). -/
  adpcmCoef : BitVec 4 → Int × Int := fun _ => (0, 0)
  /-- `ATK_STEP` of rate, mode (true: pseudo-exponential) and envelope value (R5). -/
  atkStep : BitVec 7 → Bool → BitVec 32 → Nat := fun _ _ _ => 1
  atkStep_fastest_pos : ∀ m v, 0 < atkStep 0x7f#7 m v := by intros; decide
  /-- "rate 0x7f is the fastest" (R5, notes/assumptions/9.md). -/
  atkStep_fastest : ∀ r m v, atkStep r m v ≤ atkStep 0x7f#7 m v := by intros; exact Nat.le_refl _
  /-- `DEC_STEP` of rate and value (R5). -/
  decStep : BitVec 4 → BitVec 32 → Nat := fun _ _ => 0
  /-- `SUS_STEP` of rate, the 3-bit mode and value (R5). That an instance ignores bit 0 of the mode is not asked
  (DESIGN CHOICE, notes/assumptions/21.md). -/
  susStep : BitVec 7 → BitVec 3 → BitVec 32 → Nat := fun _ _ _ => 0
  /-- `REL_STEP` of rate, mode and value (R5). -/
  relStep : BitVec 5 → Bool → BitVec 32 → Nat := fun _ _ _ => 0
  /-- `SLIDE_DELTA` of exp, dec, increment and the current volume (R5). -/
  slideDelta : Bool → Bool → BitVec 7 → Half → Nat := fun _ _ _ _ => 0
  /-- `NOISE_STEP` (R5). Any function of 24 bits is legal: that it is a shift register with linear feedback is not asked
  (DESIGN CHOICE, notes/assumptions/18.md). -/
  noiseStep : BitVec 24 → BitVec 24 := id
  /-- `NOISE_OUT` (R5). -/
  noiseOut : BitVec 24 → Half := fun _ => 0#16
  /-- `REVERB_LPF` of the held and the current input (R5). Of "a low-pass" only the next property is asked
  (DESIGN CHOICE, notes/assumptions/18.md). -/
  reverbLpf : Half → Half → Half := fun _ _ => 0#16
  /-- A low-pass of silence is silence: what 44_reverb.md R236 b, stated without a condition, needs of R5's "a low-pass"
  (DEDUCED, notes/assumptions/19.md). -/
  reverbLpf_silence : reverbLpf 0#16 0#16 = 0#16 := by rfl
deriving Inhabited

/-- The implementation's parameters: an uninterpreted legal instance. No body, so nothing can be proved of a value of it
beyond what `Config` carries (notes/assumptions/7.md, DESIGN CHOICE). -/
opaque Config.chosen : Config

/-- `VOL_SHIFT`: its legal range in 00_scope.md R4 is the one value 15 (D19). -/
def volShift : Nat := 15

end Sys2Proof
end

