-- ==== Sys2Proof/Machine/Params.lean ====
section
/-! DEFINITION. The parameters this machine runs with. -/

namespace Sys2Proof.Machine

/-- Every rule that reads a parameter reads it here: the uninterpreted instance `Config.chosen` (00_scope.md R4, R5;
notes/assumptions/7.md). -/
def config : Config := Config.chosen

end Sys2Proof.Machine
end

