-- ==== Sys2Proof/Machine/State.lean ====
section
/-! DEFINITION. The state of SPU2-CORE (10_state.md), as plain data, and its reset value. The field `io` is the model's own: what
stands on the block's ports (30_encoding.md R90). -/

namespace Sys2Proof.Machine

/-- A stereo sample, i16 each, written (l, r) (00_scope.md R14). -/
structure Stereo where
  l : Half := 0#16
  r : Half := 0#16
deriving DecidableEq, Repr, Inhabited

/-- VolumeSlide (10_state.md R30). The defaults are the reset values. -/
structure Slide where
  /-- the current volume, i16 -/
  value : Half := 0#16
  /-- true: `value` does not move -/
  fixed : Bool := true
  /-- pseudo-exponential shape -/
  exp : Bool := false
  /-- decreasing -/
  dec : Bool := false
  /-- the lower bound is -0x8000, else 0 -/
  neg : Bool := false
  /-- 0..127 -/
  increment : BitVec 7 := 0#7
deriving DecidableEq, Repr, Inhabited

/-- The envelope's phases; their codes are 0..4 in this order (10_state.md R29, D18). -/
inductive Phase where
  | off
  | attack
  | decay
  | sustain
  | release
deriving DecidableEq, Repr, Inhabited

/-- Adsr (10_state.md R29). The defaults are the reset values. -/
structure Adsr where
  /-- i32, 0..0x7fff_ffff -/
  value : BitVec 32 := 0#32
  phase : Phase := .off
  attackRate : BitVec 7 := 0#7
  /-- true: pseudo-exponential -/
  attackMode : Bool := false
  decayRate : BitVec 4 := 0#4
  sustainLevel : BitVec 4 := 0#4
  sustainRate : BitVec 7 := 0#7
  /-- bit 2: pseudo-exponential, bit 1: decrease, bit 0: no function of its own (notes/assumptions/21.md) -/
  sustainMode : BitVec 3 := 0#3
  releaseRate : BitVec 5 := 0#5
  /-- true: pseudo-exponential -/
  releaseMode : Bool := false
  /-- key-off received since the last key-on -/
  releasing : Bool := false
deriving DecidableEq, Repr, Inhabited

/-- `interp_history`, i32 each, `h3` the newest (10_state.md R28). -/
structure History where
  h0 : BitVec 32 := 0#32
  h1 : BitVec 32 := 0#32
  h2 : BitVec 32 := 0#32
  h3 : BitVec 32 := 0#32
deriving DecidableEq, Repr, Inhabited

/-- A block of 28 zero samples. -/
def zeroBlock : Block := Vector.replicate 28 0#16

/-- Voice (10_state.md R28). The defaults are the reset values. -/
structure Voice where
  startAddr : Addr := 0#20
  loopStartAddr : Addr := 0#20
  nextAddr : Addr := 0#20
  pitch : Half := 0#16
  /-- u32; 4096 is one sample -/
  samplePosFrac : BitVec 32 := 0#32
  hist : History := {}
  prev1 : Half := 0#16
  prev2 : Half := 0#16
  /-- the private copy of the block being played -/
  blk : Block := zeroBlock
  /-- index of the next sample of `blk`; 28: the block is used up -/
  blkPos : Fin 29 := 28
  /-- bit 0 loop-end, bit 1 loop, bit 2 loop-start -/
  loopFlags : BitVec 3 := 0#3
  adsr : Adsr := {}
  volL : Slide := {}
  volR : Slide := {}
  /-- i32: the enveloped sample of the current tick -/
  lastOutput : BitVec 32 := 0#32
deriving DecidableEq, Repr, Inhabited

/-- Core state: the register shadow (10_state.md R23), control (R31), transfer (R32), noise and ring position (R33), slides
(R34), reverb configuration (R35) and state (R36). The defaults are the reset values but for `noise`. -/
structure Core where
  /-- `reg[c][0..511]` -/
  shadow : Vector Half 512 := Vector.replicate 512 0#16
  voices : Vector Voice 24 := Vector.replicate 24 {}
  pmon : VoiceMask := 0#24
  non : VoiceMask := 0#24
  vmixDl : VoiceMask := 0#24
  vmixDr : VoiceMask := 0#24
  vmixWl : VoiceMask := 0#24
  vmixWr : VoiceMask := 0#24
  mmix : BitVec 12 := 0#12
  fxEn : Bool := false
  irqEn : Bool := false
  irqAddr : Addr := 0#20
  irqPending : Bool := false
  endx : VoiceMask := 0#24
  tsa : Addr := 0#20
  tda : Addr := 0#20
  noise : BitVec 24 := 0#24
  outPos : Nat := 0
  mvolL : Slide := {}
  mvolR : Slide := {}
  evolL : Slide := {}
  evolR : Slide := {}
  ivolL : Slide := {}
  ivolR : Slide := {}
  esa : Addr := 0#20
  eea : Addr := 0#20
  /-- the 24 offsets by number (10_state.md R51) -/
  off : Vector Addr 24 := Vector.replicate 24 0#20
  /-- the 10 coefficients, i16, by number (10_state.md R52) -/
  coef : Vector Half 10 := Vector.replicate 10 0#16
  revCursor : Addr := 0#20
  revLast : Stereo := {}
  revHeld : Stereo := {}
deriving DecidableEq, Repr, Inhabited

/-- Sample RAM as (byte address, byte) pairs in canonical form: word a is bytes 2a (low) and 2a + 1 (high)
(20_memory.md R60, R64; notes/assumptions/5.md). -/
abbrev Memory := List Host.Cell

/-- The ADPCM cache (10_state.md R24): the valid block indices, strictly rising, each with its 28 samples. An index that is not
listed has validity bit 0, and its samples are never read (notes/assumptions/6.md). -/
abbrev Cache := List (Nat × Block)

/-- The levels on the six sample input ports (30_encoding.md R90, R99). -/
structure SampleInputs where
  extL : Half := 0#16
  extR : Half := 0#16
  snd0L : Half := 0#16
  snd0R : Half := 0#16
  snd1L : Half := 0#16
  snd1R : Half := 0#16
deriving DecidableEq, Repr, Inhabited

/-- One event on the input ports: a step of the machine (00_scope.md R13, 45_commands.md R253). -/
inductive PortEvent where
  /-- a word on `cmd_word`, with the levels of the sample inputs at that step -/
  | word (w : CmdWord) (inputs : SampleInputs)
  /-- the `rst` port (70_reset_and_hazards.md R330) -/
  | rst
deriving DecidableEq, Repr

/-- The MODEL's own state: what stands on the ports (notes/assumptions/1.md, 3.md, 4.md). -/
structure Ports where
  /-- the events the host will present, in order -/
  pending : List PortEvent := []
  /-- the sample inputs during the current step -/
  inputs : SampleInputs := {}
  /-- the samples pushed so far (`out_push`, 30_encoding.md R91), newest first -/
  pushes : List Stereo := []
deriving DecidableEq, Repr, Inhabited

/-- The whole state (10_state.md R20). The defaults are the reset values but for the noise generators. -/
structure State where
  mem : Memory := []
  cache : Cache := []
  core0 : Core := {}
  core1 : Core := {}
  /-- ticks executed, modulo 2^32 -/
  tick : BitVec 32 := 0#32
  /-- sticky: an illegal command has been seen -/
  cmdErr : Bool := false
  /-- the code of the first illegal command since reset -/
  errCode : BitVec 2 := 0#2
  /-- payload words still expected -/
  burstRemaining : BitVec 16 := 0#16
  burstCore : CoreId := .c0
  /-- `out_l`, `out_r` -/
  out : Stereo := {}
  rspData : Half := 0#16
  /-- the model's own: the ports -/
  io : Ports := {}
deriving DecidableEq, Repr, Inhabited

/-- What stops the machine: nothing. No memory access faults (20_memory.md R63), every computation is total
(60_exceptions.md R309), an illegal command is recorded and the block goes on (R300). So this type has no constructor. -/
inductive Fault : Type where
deriving DecidableEq, Repr

/-- An instruction without a meaning. -/
inductive Refusal where
  /-- Raised by `exec` for an instruction that is not modelled yet; safe. No arm raises it any more. -/
  | notModelled (mnemonic : String)
deriving DecidableEq, Repr

/-- A core after reset: `noise` is the seed (70_reset_and_hazards.md R331), everything else as 10_state.md R54 says. -/
def resetCore (seed : BitVec 24) : Core := { noise := seed }

/-- The state after a power-on reset with a given configuration (10_state.md R54, 70_reset_and_hazards.md R330): every word of
memory holds `mem_init`, which is what an unlisted address reads as. -/
def resetWith (cfg : Config) : State :=
  { core0 := resetCore cfg.noiseSeed, core1 := resetCore cfg.noiseSeed }

/-- The machine right after reset. -/
def State.reset : State := resetWith config

end Sys2Proof.Machine
end

