-- ==== Sys2Proof/Machine/Operands.lean ====
section
/-! DEFINITION. Operand forms and arithmetic: the notation of 00_scope.md R6 to R11, the register formats of 10_state.md R43 to
R49 as 30_encoding.md R97 assembles them. -/

namespace Sys2Proof.Machine

/-! ## Arithmetic over the integers (00_scope.md R7 to R11) -/

/-- `a >> n`: floor of a / 2^n (R9). -/
def asr (a : Int) (n : Nat) : Int := a / 2 ^ n

/-- `clamp(x, lo, hi)` (R10). -/
def clamp (x lo hi : Int) : Int := min (max x lo) hi

/-- `sat16(x)` (R10). -/
def sat16 (x : Int) : Int := clamp x (-32768) 32767

/-- `x AND M(b)`: x when the bit is 1, 0 when it is 0 (R11). -/
def gate (b : Bool) (x : Int) : Int := if b then x else 0

/-- `sext_16` (R8): the i16 a rule stores. -/
def toI16 (x : Int) : Half := BitVec.ofInt 16 x

/-- The i32 a rule stores. -/
def toI32 (x : Int) : BitVec 32 := BitVec.ofInt 32 x

/-! ## Address halves (10_state.md R45): `X_HI` carries bits 19..16 in data[3:0], `X_LO` bits 15..0 -/

def withAddrHi (a : Addr) (d : Half) : Addr := d.extractLsb' 0 4 ++ a.extractLsb' 0 16
def withAddrLo (a : Addr) (d : Half) : Addr := a.extractLsb' 16 4 ++ d
def addrHi (a : Addr) : Half := (a.extractLsb' 16 4).setWidth 16
def addrLo (a : Addr) : Half := a.extractLsb' 0 16

/-! ## Mask halves (10_state.md R46): `X_LO` carries voices 0..15, `X_HI` voices 16..23 in data[7:0] -/

def withMaskHi (m : VoiceMask) (d : Half) : VoiceMask := d.extractLsb' 0 8 ++ m.extractLsb' 0 16
def withMaskLo (m : VoiceMask) (d : Half) : VoiceMask := m.extractLsb' 16 8 ++ d
def maskHi (m : VoiceMask) : Half := (m.extractLsb' 16 8).setWidth 16
def maskLo (m : VoiceMask) : Half := m.extractLsb' 0 16

/-! ## Register formats -/

/-- The fixed-volume value `sext_15(d[14:0]) * 2`, that is `sext_16({d[14:0], 0})` (10_state.md R43). -/
def fixedVolume (d : Half) : Half := d.extractLsb' 0 15 ++ 0#1

/-- `write_slide(s, d)` (45_commands.md R256, format 10_state.md R43). -/
def writeSlide (d : Half) (s : Slide) : Slide :=
  if d.getLsbD 15 then
    { value := s.value, fixed := false, exp := d.getLsbD 14, dec := d.getLsbD 13, neg := d.getLsbD 12,
      increment := d.extractLsb' 0 7 }
  else
    { value := fixedVolume d, fixed := true, exp := false, dec := false, neg := false, increment := 0#7 }

/-- `ADSR1` (10_state.md R44, 45_commands.md R258). -/
def writeAdsr1 (d : Half) (a : Adsr) : Adsr :=
  { a with attackMode := d.getLsbD 15, attackRate := d.extractLsb' 8 7, decayRate := d.extractLsb' 4 4,
           sustainLevel := d.extractLsb' 0 4 }

/-- `ADSR2` (10_state.md R44, 45_commands.md R259). -/
def writeAdsr2 (d : Half) (a : Adsr) : Adsr :=
  { a with sustainMode := d.extractLsb' 13 3, sustainRate := d.extractLsb' 6 7, releaseMode := d.getLsbD 5,
           releaseRate := d.extractLsb' 0 5 }

/-- The number k of a reverb offset (10_state.md R51). -/
def offIndex : RevOff → Fin 24
  | .iirSrcA0 => 0 | .iirSrcA1 => 1 | .iirSrcB0 => 2 | .iirSrcB1 => 3
  | .iirDestA0 => 4 | .iirDestA1 => 5 | .iirDestB0 => 6 | .iirDestB1 => 7
  | .accSrcA0 => 8 | .accSrcA1 => 9 | .accSrcB0 => 10 | .accSrcB1 => 11
  | .accSrcC0 => 12 | .accSrcC1 => 13 | .accSrcD0 => 14 | .accSrcD1 => 15
  | .fbSrcA0 => 16 | .fbSrcA1 => 17 | .fbSrcB0 => 18 | .fbSrcB1 => 19
  | .mixDestA0 => 20 | .mixDestA1 => 21 | .mixDestB0 => 22 | .mixDestB1 => 23

/-- The number k of a reverb coefficient (10_state.md R52). -/
def coefIndex : RevCoef → Fin 10
  | .iirAlpha => 0 | .iirCoef => 1 | .inCoefL => 2 | .inCoefR => 3
  | .accCoefA => 4 | .accCoefB => 5 | .accCoefC => 6 | .accCoefD => 7
  | .fbAlpha => 8 | .fbX => 9

end Sys2Proof.Machine
end

