-- ==== Sys2Proof/Machine/Store.lean ====
section
/-! DEFINITION. Finite maps keyed by `Nat` as association lists with strictly rising keys: the one form in which the model holds
sample RAM and the ADPCM cache. -/

namespace Sys2Proof.Machine

variable {α : Type}

/-- The value listed under a key. -/
def lookupKey : List (Nat × α) → Nat → Option α
  | [], _ => none
  | (k, x) :: rest, a => if a = k then some x else lookupKey rest a

/-- Puts a value under a key, in order. -/
def insertKey : List (Nat × α) → Nat → α → List (Nat × α)
  | [], a, y => [(a, y)]
  | (k, x) :: rest, a, y =>
    if a < k then (a, y) :: (k, x) :: rest
    else if a = k then (a, y) :: rest
    else (k, x) :: insertKey rest a y

/-- Takes a key out. -/
def eraseKey : List (Nat × α) → Nat → List (Nat × α)
  | [], _ => []
  | (k, x) :: rest, a => if a = k then rest else (k, x) :: eraseKey rest a

/-- The keys rise strictly. -/
abbrev KeysRising (m : List (Nat × α)) : Prop := m.Pairwise fun p q => p.1 < q.1

end Sys2Proof.Machine
end

