-- ==== Sys2Proof/Machine/Ops.lean ====
section
/-! DEFINITION. The named operations over registers, memory and the cache, the illegal-command latch (the block's one
"exception") and the two resets. -/

namespace Sys2Proof.Machine

/-! ## Cores and voices -/

/-- `core[c]`. -/
def State.core (s : State) : CoreId → Core
  | .c0 => s.core0
  | .c1 => s.core1

/-- Updates `core[c]`. -/
def State.modCore (s : State) (c : CoreId) (f : Core → Core) : State :=
  match c with
  | .c0 => { s with core0 := f s.core0 }
  | .c1 => { s with core1 := f s.core1 }

/-- `voice[v]` of a core. -/
def Core.voice (k : Core) (v : VoiceId) : Voice := k.voices[v.val]

/-- Updates `voice[v]` of a core. -/
def Core.modVoice (k : Core) (v : VoiceId) (f : Voice → Voice) : Core :=
  { k with voices := k.voices.set v.val (f k.voices[v.val]) }

/-- `core[c].voice[v]`. -/
def State.voice (s : State) (c : CoreId) (v : VoiceId) : Voice := (s.core c).voice v

/-- Updates `core[c].voice[v]`. -/
def State.modVoice (s : State) (c : CoreId) (v : VoiceId) (f : Voice → Voice) : State :=
  s.modCore c fun k => k.modVoice v f

/-- A reverb offset `off[name]` (10_state.md R35). -/
def Core.offset (k : Core) (name : RevOff) : Addr := k.off[(offIndex name).val]

/-- A reverb coefficient `coef[name]` (10_state.md R35). -/
def Core.coefficient (k : Core) (name : RevCoef) : Half := k.coef[(coefIndex name).val]

/-! ## The register shadow (10_state.md R23) -/

/-- `reg[c][i]`. -/
def State.shadowAt (s : State) (c : CoreId) (reg : BitVec 9) : Half := (s.core c).shadow[reg.toNat]

/-- `reg[c][i] <- d` (45_commands.md R251). -/
def State.setShadow (s : State) (c : CoreId) (reg : BitVec 9) (d : Half) : State :=
  s.modCore c fun k => { k with shadow := k.shadow.set reg.toNat d }

/-- `WREG` of a writable voice register, index v*16 + k: the shadow takes `d`, then the register's effect on the voice
(45_commands.md R251). -/
def State.wregVoice (s : State) (c : CoreId) (v : VoiceId) (k : BitVec 4) (d : Half) (effect : Voice → Voice) : State :=
  (s.setShadow c (voiceIndex v k) d).modVoice c v effect

/-- `WREG` of a writable core register: the shadow takes `d`, then the register's effect on the core (45_commands.md R251). -/
def State.wregCore (s : State) (c : CoreId) (reg : BitVec 9) (d : Half) (effect : Core → Core) : State :=
  (s.setShadow c reg d).modCore c effect

/-! ## Sample RAM (20_memory.md R61 to R64) -/

/-- What a byte no entry lists reads as: its half of `mem_init` (00_scope.md R4, 20_memory.md R64). -/
def initByte (cfg : Config) (b : Nat) : BitVec 8 :=
  (cfg.memInit (BitVec.ofNat 20 (b / 2))).extractLsb' (b % 2 * 8) 8

/-- One byte of the memory list. -/
def Memory.byte (cfg : Config) (m : Memory) (b : Nat) : BitVec 8 := (lookupKey m b).getD (initByte cfg b)

/-- Writes one byte, keeping the canonical form: the byte an unlisted address reads as is not listed. -/
def Memory.setByte (cfg : Config) (m : Memory) (b : Nat) (x : BitVec 8) : Memory :=
  if x = initByte cfg b then eraseKey m b else insertKey m b x

/-- The canonical form: addresses strictly rising and inside the 0x200000 bytes of sample RAM, no entry equal to what an unlisted
address reads as. -/
abbrev Memory.wf (cfg : Config) (m : Memory) : Prop :=
  KeysRising m ∧ ∀ e ∈ m, e.1 < 0x200000 ∧ e.2 ≠ initByte cfg e.1

/-- The word at a word address, low byte first (20_memory.md R64). -/
def Memory.word (cfg : Config) (m : Memory) (a : Addr) : Half :=
  Memory.byte cfg m (2 * a.toNat + 1) ++ Memory.byte cfg m (2 * a.toNat)

/-- Stores a word. -/
def Memory.setWord (cfg : Config) (m : Memory) (a : Addr) (d : Half) : Memory :=
  Memory.setByte cfg (Memory.setByte cfg m (2 * a.toNat) (d.extractLsb' 0 8)) (2 * a.toNat + 1) (d.extractLsb' 8 8)

/-- `MemRead(a)` (20_memory.md R61). -/
def State.memRead (cfg : Config) (s : State) (a : Addr) : Half := Memory.word cfg s.mem a

/-- The model's read of one byte of memory: byte 2a is the low byte of word a, byte 2a + 1 its high byte. -/
def State.readByte (s : State) (b : Nat) : BitVec 8 := Memory.byte config s.mem b

/-! ## The ADPCM cache (10_state.md R24, 40_adpcm_cache.md R127) -/

/-- `cache_samples[idx]` where `cache_valid[idx] = 1`, none where the bit is 0. -/
def Cache.entry (k : Cache) (idx : Nat) : Option Block := lookupKey k idx

/-- `cache_valid[idx]`. -/
def Cache.valid (k : Cache) (idx : Nat) : Bool := (k.entry idx).isSome

/-- Fills an entry and sets its validity bit (40_adpcm_cache.md R121). -/
def Cache.fill (k : Cache) (idx : Nat) (samples : Block) : Cache := insertKey k idx samples

/-- `invalidate_range(lo, hi)` of word addresses, half-open (40_adpcm_cache.md R127). -/
def Cache.invalidateRange (k : Cache) (lo hi : Nat) : Cache :=
  if lo < hi then k.filter fun e => !(decide (lo / 8 ≤ e.1) && decide (e.1 ≤ (hi - 1) / 8)) else k

/-- `MemWrite(a, v)`: stores, then clears the validity bit of the word's block (20_memory.md R62). -/
def State.memWrite (cfg : Config) (s : State) (a : Addr) (d : Half) : State :=
  { s with mem := Memory.setWord cfg s.mem a d, cache := Cache.invalidateRange s.cache a.toNat (a.toNat + 1) }

/-! ## The address-match interrupt and the host's memory write -/

/-- One core's part of `irq_check` (60_exceptions.md R303). -/
def Core.irqCheck (a : Addr) (k : Core) : Core :=
  if k.irqEn && k.irqAddr == a then { k with irqPending := true } else k

/-- `irq_check(a)`: both cores, whichever caused it (60_exceptions.md R303). -/
def State.irqCheck (s : State) (a : Addr) : State :=
  { s with core0 := s.core0.irqCheck a, core1 := s.core1.irqCheck a }

/-- `host_mem_write(c, d)` (45_commands.md R281): check, store, advance `tda` (wrapping, 20_memory.md R63). -/
def State.hostMemWrite (cfg : Config) (s : State) (c : CoreId) (d : Half) : State :=
  let a := (s.core c).tda
  ((s.irqCheck a).memWrite cfg a d).modCore c fun k => { k with tda := k.tda + 1 }

/-! ## Illegal commands (60_exceptions.md R300): the one exception of the block, a latch -/

/-- `flag ERR(code)`: sticky error, the first code kept, nothing else. -/
def flagErr (e : DecodeError) (s : State) : State :=
  { s with cmdErr := true, errCode := if s.errCode = 0#2 then e.code else s.errCode }

/-! ## Resets (70_reset_and_hazards.md R330) -/

/-- The `RESET` command: every field its reset value but `mem` (45_commands.md R252); the ports are not state of the block. -/
def resetKeepingMem (cfg : Config) (s : State) : State := { resetWith cfg with mem := s.mem, io := s.io }

/-- The `rst` port: every field its reset value, `mem` becomes `mem_init`. -/
def powerOn (cfg : Config) (s : State) : State := { resetWith cfg with io := s.io }

end Sys2Proof.Machine
end

