-- ==== Sys2Proof/Machine/Adpcm.lean ====
section
/-! DEFINITION. The ADPCM block decoder and `get_block` (40_adpcm_cache.md R120 to R126). -/

namespace Sys2Proof.Machine

/-- The block base of an address: its low three bits are ignored (20_memory.md R65). -/
def blockBase (a : Addr) : Addr := a.extractLsb' 3 17 ++ 0#3

/-- The block index of an address (00_scope.md glossary). -/
def blockIndex (a : Addr) : Nat := a.toNat / 8

/-- The four sample nibbles of a data word, lowest first (40_adpcm_cache.md R122). -/
def wordNibbles (w : Half) : List (BitVec 4) :=
  [w.extractLsb' 0 4, w.extractLsb' 4 4, w.extractLsb' 8 4, w.extractLsb' 12 4]

/-- The 28 sample nibbles of the block at `base`: words base + 1 .. base + 7 (40_adpcm_cache.md R122). -/
def blockNibbles (cfg : Config) (m : Memory) (base : Addr) : List (BitVec 4) :=
  (List.range 7).flatMap fun i => wordNibbles (Memory.word cfg m (base + BitVec.ofNat 20 (i + 1)))

theorem blockNibbles_length (cfg : Config) (m : Memory) (base : Addr) :
    (blockNibbles cfg m base).length = 28 := rfl

/-- One sample from its nibble, the coefficient pair, the shift and the history (40_adpcm_cache.md R124). -/
def decodeSample (coef : Int × Int) (shift : Nat) (n : BitVec 4) (prev1 prev2 : Half) : Half :=
  toI16 (sat16 (asr (n.toInt * 4096) shift + asr (coef.1 * prev1.toInt + coef.2 * prev2.toInt) 6))

/-- The samples of a run of nibbles; each becomes the history of the next (40_adpcm_cache.md R124). -/
def decodeRun (coef : Int × Int) (shift : Nat) : List (BitVec 4) → Half → Half → List Half
  | [], _, _ => []
  | n :: rest, prev1, prev2 =>
    let x := decodeSample coef shift n prev1 prev2
    x :: decodeRun coef shift rest x prev1

theorem decodeRun_length (coef : Int × Int) (shift : Nat) (ns : List (BitVec 4)) (p1 p2 : Half) :
    (decodeRun coef shift ns p1 p2).length = ns.length := by
  induction ns generalizing p1 p2 with
  | nil => rfl
  | cons n rest ih => simp [decodeRun, ih]

/-- The header byte of the block: byte 0 (40_adpcm_cache.md R122). -/
def blockHeader (cfg : Config) (m : Memory) (base : Addr) : BitVec 8 := (Memory.word cfg m base).extractLsb' 0 8

/-- The loop flags of the block: bits 2..0 of byte 1 (40_adpcm_cache.md R122, 41_voice_pipeline.md R146). -/
def blockFlags (cfg : Config) (m : Memory) (base : Addr) : BitVec 3 := (Memory.word cfg m base).extractLsb' 8 3

/-- `decode_block(base, prev1, prev2)` (40_adpcm_cache.md R124): header bits 7..4 the predictor, bits 3..0 the shift. -/
def decodeBlock (cfg : Config) (m : Memory) (base : Addr) (prev1 prev2 : Half) : Block :=
  let h := blockHeader cfg m base
  let ns := blockNibbles cfg m base
  ⟨(decodeRun (cfg.adpcmCoef (h.extractLsb' 4 4)) (h.extractLsb' 0 4).toNat ns prev1 prev2).toArray, by
    rw [List.size_toArray, decodeRun_length, blockNibbles_length]⟩

/-- `get_block(addr, vc)`: the hit path (40_adpcm_cache.md R120) answers the cached samples, the miss path (R121) decodes with
the caller's history and fills the entry at or above `DYN_LINE`. On both the caller's new history is samples 27 and 26. -/
def State.getBlock (cfg : Config) (s : State) (a : Addr) (prev1 prev2 : Half) : State × Block :=
  match s.cache.entry (blockIndex a) with
  | some samples => (s, samples)
  | none =>
    let samples := decodeBlock cfg s.mem (blockBase a) prev1 prev2
    (if cfg.dynLine ≤ a.toNat then { s with cache := s.cache.fill (blockIndex a) samples } else s, samples)

end Sys2Proof.Machine
end

