-- ==== Sys2Proof/Machine/Flags.lean ====
section
/-! DEFINITION. The status flags (10_state.md R26): ENDX, the error and interrupt bits as software and the pins see them, and the
voice events that set or clear flags (key-on, key-off, stop). -/

namespace Sys2Proof.Machine

/-- The mask whose one set bit is voice v's. -/
def voiceBit (v : VoiceId) : VoiceMask := 1#24 <<< v.val

/-- The voice's bit of a mask. -/
def maskBit (m : VoiceMask) (v : VoiceId) : Bool := m.getLsbD v.val

/-- `stop_voice(c, v)` (41_voice_pipeline.md R149): Off, value and output 0, ENDX set. -/
def State.stopVoice (s : State) (c : CoreId) (v : VoiceId) : State :=
  s.modCore c fun k =>
    { k.modVoice v fun vc =>
        { vc with adsr := { vc.adsr with phase := .off, value := 0#32 }, lastOutput := 0#32 } with
      endx := k.endx ||| voiceBit v }

/-- What key-on does to the voice (41_voice_pipeline.md R152). -/
def Voice.keyOn (cfg : Config) (vc : Voice) : Voice :=
  { vc with
    adsr := { vc.adsr with phase := .attack, value := cfg.adsrSeed.setWidth 32, releasing := false }
    nextAddr := vc.startAddr
    samplePosFrac := 0#32
    hist := {}
    prev1 := 0#16
    prev2 := 0#16
    blk := zeroBlock
    blkPos := 28
    loopFlags := 0#3
    lastOutput := 0#32 }

/-- `key_on(c, v)` (41_voice_pipeline.md R152): the voice restarts, its ENDX bit is cleared. -/
def Core.keyOn (cfg : Config) (k : Core) (v : VoiceId) : Core :=
  { k.modVoice v (Voice.keyOn cfg) with endx := k.endx &&& ~~~ voiceBit v }

/-- `key_off(c, v)` (41_voice_pipeline.md R153). -/
def Voice.keyOff (vc : Voice) : Voice :=
  if vc.adsr.phase = .off then vc else { vc with adsr := { vc.adsr with releasing := true } }

def Core.keyOff (k : Core) (v : VoiceId) : Core := k.modVoice v Voice.keyOff

/-- The voice numbers 0..23 in order. -/
def voiceIds : List VoiceId := List.finRange 24

/-- Applies a key event to the voices whose bit of a mask is set, in rising order (45_commands.md R271 to R274). -/
def Core.forMask (k : Core) (m : VoiceMask) (event : Core → VoiceId → Core) : Core :=
  voiceIds.foldl (fun k v => if maskBit m v then event k v else k) k

/-- A `KON_LO` or `KOFF_LO` word as a mask of voices 0..15 (10_state.md R46). -/
def loMask (d : Half) : VoiceMask := withMaskLo 0#24 d

/-- A `KON_HI` or `KOFF_HI` word as a mask of voices 16..23; d[15:8] is ignored (10_state.md R46). -/
def hiMask (d : Half) : VoiceMask := withMaskHi 0#24 d

/-- `WREG ATTR` on the core (45_commands.md R270): writing `irq_en = 0` clears `irq_pending`. -/
def writeAttr (d : Half) (k : Core) : Core :=
  { k with fxEn := d.getLsbD 0, irqEn := d.getLsbD 1, irqPending := k.irqPending && d.getLsbD 1 }

/-- `STAT` (10_state.md R50, 45_commands.md R283): bit 0 the core's pending bit, bit 1 `cmd_err`, bits 5..4 `err_code`. -/
def State.statWord (s : State) (c : CoreId) : Half :=
  0#10 ++ (s.errCode ++ (0#2 ++ (BitVec.ofBool s.cmdErr ++ BitVec.ofBool (s.core c).irqPending)))

/-- The `irq` output port (60_exceptions.md R305). -/
def State.irqPin (s : State) : Bool := s.core0.irqPending || s.core1.irqPending

/-- The `err` output port (60_exceptions.md R300). -/
def State.errPin (s : State) : Bool := s.cmdErr

end Sys2Proof.Machine
end

