-- ==== Sys2Proof/Machine/Adsr.lean ====
section
/-! DEFINITION. The envelope state machine (42_adsr.md). -/

namespace Sys2Proof.Machine

/-- `ADSR_MAX` (00_scope.md R3). -/
def adsrMax : Int := 0x7fffffff

/-- `sustain_target(L)` (42_adsr.md R175). -/
def sustainTarget (level : BitVec 4) : Int := ((level.toNat : Int) + 1) * 2 ^ 27 - 1

/-- Key-off moves a sounding phase to Release at the start of a step (42_adsr.md R173). -/
def enterRelease (a : Adsr) : Adsr :=
  if a.releasing && (a.phase = .attack || a.phase = .decay || a.phase = .sustain) then { a with phase := .release }
  else a

/-- 42_adsr.md R174. -/
def attackStep (cfg : Config) (a : Adsr) : Adsr :=
  let nv := a.value.toInt + cfg.atkStep a.attackRate a.attackMode a.value
  if adsrMax ≤ nv then { a with value := toI32 adsrMax, phase := .decay } else { a with value := toI32 nv }

/-- 42_adsr.md R176. -/
def decayStep (cfg : Config) (a : Adsr) : Adsr :=
  let nv := max (a.value.toInt - cfg.decStep a.decayRate a.value) 0
  { a with value := toI32 nv, phase := if nv ≤ sustainTarget a.sustainLevel then .sustain else .decay }

/-- 42_adsr.md R177 to R179; none: the voice is to be stopped. `SUS_STEP` gets the whole 3-bit mode, bit 0 included, as the
pseudocode of R178 and R179 writes it; that bit 0 has no function (R177) is left to the instance (DESIGN CHOICE,
notes/assumptions/21.md). -/
def sustainStep (cfg : Config) (a : Adsr) : Option Adsr :=
  let d : Int := cfg.susStep a.sustainRate a.sustainMode a.value
  if a.sustainMode.getLsbD 1 then
    if a.value.toInt - d ≤ 0 then none else some { a with value := toI32 (a.value.toInt - d) }
  else some { a with value := toI32 (min (a.value.toInt + d) adsrMax) }

/-- 42_adsr.md R180; none: the voice is to be stopped. -/
def releaseStep (cfg : Config) (a : Adsr) : Option Adsr :=
  let nv := a.value.toInt - cfg.relStep a.releaseRate a.releaseMode a.value
  if nv ≤ 0 then none else some { a with value := toI32 nv }

/-- The envelope after one step (42_adsr.md R172); none: the step ends in `stop_voice`. -/
def adsrNext (cfg : Config) (a0 : Adsr) : Option Adsr :=
  let a := enterRelease a0
  match a.phase with
  | .attack => some (attackStep cfg a)
  | .decay => some (decayStep cfg a)
  | .sustain => sustainStep cfg a
  | .release => releaseStep cfg a
  | .off => some a

/-- `adsr_step(c, v)` (42_adsr.md R172). -/
def State.adsrStep (cfg : Config) (s : State) (c : CoreId) (v : VoiceId) : State :=
  match adsrNext cfg (s.voice c v).adsr with
  | some a => s.modVoice c v fun vc => { vc with adsr := a }
  | none => s.stopVoice c v

end Sys2Proof.Machine
end

