-- ==== Sys2Proof/Machine/Voice.lean ====
section
/-! DEFINITION. The tick of one voice (41_voice_pipeline.md): pitch, the pull loop and block sequencing, interpolation, noise, and
the volume slides (43_volume_mixer.md R193 to R197). -/

namespace Sys2Proof.Machine

/-- `slide_step(s)`: the pseudocode of 43_volume_mixer.md R193, where a sentence of its corner cases differs (DEDUCED,
notes/assumptions/20.md). -/
def slideStep (cfg : Config) (x : Slide) : Slide :=
  if x.fixed then x
  else
    let lo : Int := if x.neg then -0x8000 else 0
    let d : Int := cfg.slideDelta x.exp x.dec x.increment x.value
    let nv := if x.dec then x.value.toInt - d else x.value.toInt + d
    { x with value := toI16 (clamp nv lo 0x7fff) }

/-! ## Pitch (R141, R142) -/

/-- The voice before voice v; read only where v > 0. -/
def prevVoice (v : VoiceId) : VoiceId := ⟨v.val - 1, Nat.lt_of_le_of_lt (Nat.sub_le _ _) v.isLt⟩

/-- `effective_pitch(c, v)` (R141): modulated by the previous voice's output of this tick (R142). -/
def State.effectivePitch (s : State) (c : CoreId) (v : VoiceId) : Nat :=
  let p := (s.voice c v).pitch.toNat
  if maskBit (s.core c).pmon v && decide (0 < v.val) then
    p * (32768 + (s.voice c (prevVoice v)).lastOutput.toInt.natAbs) / 2 ^ 15
  else p

/-! ## Pulling a sample; block sequencing (R144 to R147) -/

/-- `end_of_block(c, v)` (R145). -/
def State.endOfBlock (s : State) (c : CoreId) (v : VoiceId) : State :=
  let flags := (s.voice c v).loopFlags
  if flags.getLsbD 0 then
    if flags.getLsbD 1 then s.modVoice c v fun vc => { vc with nextAddr := vc.loopStartAddr }
    else s.stopVoice c v
  else s

/-- What a fetch latches in the voice: the block's flags and base, the samples and the history they leave (R146, R147). -/
def Voice.latch (base : Addr) (flags : BitVec 3) (samples : Block) (vc : Voice) : Voice :=
  { vc with
    loopFlags := flags
    loopStartAddr := if flags.getLsbD 2 then base else vc.loopStartAddr
    blk := samples
    prev1 := samples[27]
    prev2 := samples[26]
    nextAddr := base + 8#20
    blkPos := 0 }

/-- `fetch_block(c, v)` (R146). -/
def State.fetchBlock (cfg : Config) (s : State) (c : CoreId) (v : VoiceId) : State :=
  let vc := s.voice c v
  let base := blockBase vc.nextAddr
  let got := (s.irqCheck base).getBlock cfg base vc.prev1 vc.prev2
  got.1.modVoice c v (Voice.latch base (blockFlags cfg s.mem base) got.2)

/-- Takes the next sample of the latched block (R144); none only where the block is used up, which a fetch has just excluded. -/
def State.takeSample (s : State) (c : CoreId) (v : VoiceId) : State × Option Half :=
  let vc := s.voice c v
  if h : vc.blkPos.val < 28 then
    (s.modVoice c v fun x => { x with blkPos := ⟨vc.blkPos.val + 1, by omega⟩ }, some vc.blk[vc.blkPos.val])
  else (s, none)

/-- `pull(c, v)` (R144): the next sample, or none where the voice was stopped. -/
def State.pull (cfg : Config) (s : State) (c : CoreId) (v : VoiceId) : State × Option Half :=
  if (s.voice c v).blkPos.val = 28 then
    let s1 := s.endOfBlock c v
    if (s1.voice c v).adsr.phase = .off then (s1, none)
    else (s1.fetchBlock cfg c v).takeSample c v
  else s.takeSample c v

/-- The pulled sample enters the history and the position loses one sample (R143). -/
def Voice.shiftIn (x : Half) (vc : Voice) : Voice :=
  { vc with
    hist := { h0 := vc.hist.h1, h1 := vc.hist.h2, h2 := vc.hist.h3, h3 := x.signExtend 32 }
    samplePosFrac := vc.samplePosFrac - 4096#32 }

/-- A stop inside the loop keeps the position's low 12 bits (R143). -/
def Voice.dropWhole (vc : Voice) : Voice := { vc with samplePosFrac := vc.samplePosFrac &&& 0xfff#32 }

/-- The pull loop (R143), with fuel; answers whether the voice is still live. Every turn takes 4096 from the position, so
position / 4096 turns are all there can be. -/
def State.pullLoop (cfg : Config) (c : CoreId) (v : VoiceId) : Nat → State → State × Bool
  | 0, s => (s, true)
  | n + 1, s =>
    if 4096 ≤ (s.voice c v).samplePosFrac.toNat then
      match s.pull cfg c v with
      | (s1, none) => (s1.modVoice c v Voice.dropWhole, false)
      | (s1, some x) => State.pullLoop cfg c v n (s1.modVoice c v (Voice.shiftIn x))
    else (s, true)

/-! ## Interpolation (R154 to R157) -/

/-- R156. -/
def linear (p2 p3 f : Int) : Int := p2 + asr ((p3 - p2) * f) 12

/-- R157. -/
def cubic (p0 p1 p2 p3 f : Int) : Int :=
  let a := 3 * (p1 - p2) + p3 - p0
  let b := 2 * p0 - 5 * p1 + 4 * p2 - p3
  let k := p2 - p0
  let t := asr (a * f) 12
  let t := asr ((t + b) * f) 12
  let t := asr ((t + k) * f) 13
  p1 + t

/-- The three policies on a history and a fraction; the result is not saturated (R154). -/
def interpolateAt (policy : Interp) (h : History) (f : Nat) : Int :=
  match policy with
  | .nearest => h.h3.toInt
  | .linear => linear h.h2.toInt h.h3.toInt f
  | .cubic => cubic h.h0.toInt h.h1.toInt h.h2.toInt h.h3.toInt f

/-- `interpolate(vc)` (R154). -/
def Voice.interpolate (cfg : Config) (vc : Voice) : Int :=
  interpolateAt cfg.interp vc.hist (vc.samplePosFrac &&& 0xfff#32).toNat

/-! ## The tick of a voice (R140) -/

/-- Steps 1 to 3: the voice's sample of this tick, from the noise generator (R158) or the resampler; none where the voice was
stopped. -/
def State.voiceSample (cfg : Config) (s : State) (c : CoreId) (v : VoiceId) : State × Option Int :=
  if maskBit (s.core c).non v then (s, some (cfg.noiseOut (s.core c).noise).toInt)
  else
    let pos : BitVec 32 := BitVec.ofNat 32 ((s.voice c v).samplePosFrac.toNat + s.effectivePitch c v)
    let s1 := s.modVoice c v fun vc => { vc with samplePosFrac := pos }
    match State.pullLoop cfg c v (pos.toNat / 4096) s1 with
    | (s2, true) => (s2, some ((s2.voice c v).interpolate cfg))
    | (s2, false) => (s2, none)

/-- Sets `last_output`. -/
def State.setLast (s : State) (c : CoreId) (v : VoiceId) (x : Int) : State :=
  s.modVoice c v fun vc => { vc with lastOutput := toI32 x }

/-- The envelope multiply (43_volume_mixer.md R195). -/
def envelope (x : Int) (value : BitVec 32) : Int := asr (x * value.toInt) 31

/-- The voice volume (43_volume_mixer.md R196). -/
def voiceVolume (env : Int) (vol : Slide) : Int := asr (env * vol.value.toInt) volShift

/-- A stereo signal before a rule stores it. -/
structure Sig where
  l : Int
  r : Int
deriving DecidableEq, Repr

/-- The two zero contributions of a silent voice (R162). -/
def silence : Sig := ⟨0, 0⟩

/-- Steps 4 and 5: envelope step, then the multiplies with the stepped value (R140, 43_volume_mixer.md R195, R196). -/
def State.voiceOutput (cfg : Config) (s : State) (c : CoreId) (v : VoiceId) (x : Int) : State × Sig :=
  let s1 := s.adsrStep cfg c v
  let vc := s1.voice c v
  if vc.adsr.phase = .off then (s1.setLast c v 0, silence)
  else
    let env := envelope x vc.adsr.value
    (s1.setLast c v env, ⟨voiceVolume env vc.volL, voiceVolume env vc.volR⟩)

/-- The part of `voice_tick` before the slides (R140). -/
def State.voiceBody (cfg : Config) (s : State) (c : CoreId) (v : VoiceId) : State × Sig :=
  if (s.voice c v).adsr.phase = .off then (s.setLast c v 0, silence)
  else
    match s.voiceSample cfg c v with
    | (s1, some x) => s1.voiceOutput cfg c v x
    | (s1, none) => (s1.setLast c v 0, silence)

/-- Both volume slides step after use, on every tick (43_volume_mixer.md R197). -/
def State.stepVoiceSlides (cfg : Config) (s : State) (c : CoreId) (v : VoiceId) : State :=
  s.modVoice c v fun vc => { vc with volL := slideStep cfg vc.volL, volR := slideStep cfg vc.volR }

/-- `voice_tick(c, v)` (R140). -/
def State.voiceTick (cfg : Config) (s : State) (c : CoreId) (v : VoiceId) : State × Sig :=
  let body := s.voiceBody cfg c v
  (body.1.stepVoiceSlides cfg c v, body.2)

end Sys2Proof.Machine
end

