-- ==== Sys2Proof/Machine/Reverb.lean ====
section
/-! DEFINITION. The reverb unit of a core (44_reverb.md). A name ending in 0 is the left channel, in 1 the right
(00_scope.md R14). -/

namespace Sys2Proof.Machine

/-! ## The buffer (10_state.md R37, 44_reverb.md R221): recomputed at every use -/

def Core.bufferStart (k : Core) : Nat := min k.esa.toNat k.eea.toNat
def Core.bufferEnd (k : Core) : Nat := max k.esa.toNat k.eea.toNat
def Core.bufferLen (k : Core) : Nat := k.bufferEnd - k.bufferStart + 1

/-- `addr(name, ahead)` (R225): reduced as an integer, always inside the buffer. -/
def Core.tapAddr (k : Core) (name : RevOff) (ahead : Nat) : Addr :=
  BitVec.ofNat 20 (k.bufferStart + (k.revCursor.toNat + (k.offset name).toNat + ahead) % k.bufferLen)

/-- A coefficient as the integer it is (R229). -/
def Core.coefInt (k : Core) (name : RevCoef) : Int := (k.coefficient name).toInt

/-- `MemRead(addr(name, 0))`. -/
def State.tap (cfg : Config) (s : State) (k : Core) (name : RevOff) : Int := (s.memRead cfg (k.tapAddr name 0)).toInt

/-- `MemWrite(addr(name, ahead), sat16(x))` (R233). -/
def State.setTap (cfg : Config) (s : State) (k : Core) (name : RevOff) (ahead : Nat) (x : Int) : State :=
  s.memWrite cfg (k.tapAddr name ahead) (toI16 (sat16 x))

/-! ## The formulas -/

/-- One IIR stage, before saturation (R229). -/
def Core.iirStage (k : Core) (src dst x : Int) (inCoef : RevCoef) : Int :=
  let iirIn := asr (src * k.coefInt .iirCoef + x * k.coefInt inCoef) 16
  dst + asr ((iirIn - dst) * k.coefInt .iirAlpha) 16

/-- `acc_raw` of one channel (R230). -/
def Core.accRaw (k : Core) (a b c d : Int) : Int :=
  a * k.coefInt .accCoefA + b * k.coefInt .accCoefB + c * k.coefInt .accCoefC + d * k.coefInt .accCoefD

/-- `MIX_DEST_A` before saturation (R231). -/
def Core.mixDestA (k : Core) (accRaw fa : Int) : Int := asr (accRaw - fa * k.coefInt .fbAlpha) 16

/-- `fax`: `FB_ALPHA XOR 0x8000` on the 16-bit pattern, then sign extension (R232). -/
def Core.fbAlphaFlipped (k : Core) : Int := (k.coefficient .fbAlpha ^^^ 0x8000#16).toInt

/-- `MIX_DEST_B` before saturation (R232): the shifted `acc` multiplies `FB_ALPHA`. -/
def Core.mixDestB (k : Core) (accRaw fa fb : Int) : Int :=
  asr (k.coefInt .fbAlpha * asr accRaw 16 - fa * k.fbAlphaFlipped - fb * k.coefInt .fbX) 16

/-! ## The tick -/

/-- Even tick (R223): the input is held, the previous result returned; no memory access. -/
def State.reverbEven (s : State) (c : CoreId) (input : Sig) : State × Sig :=
  let k := s.core c
  (s.modCore c fun k => { k with revHeld := ⟨toI16 input.l, toI16 input.r⟩ }, ⟨k.revLast.l.toInt, k.revLast.r.toInt⟩)

/-- The IIR part of an odd tick (R228, R229): all eight taps are read, then the four writes in the order A0, A1, B0, B1. -/
def State.reverbIir (cfg : Config) (s : State) (k : Core) (xl xr : Int) : State :=
  let a0 := k.iirStage (s.tap cfg k .iirSrcA0) (s.tap cfg k .iirDestA0) xl .inCoefL
  let a1 := k.iirStage (s.tap cfg k .iirSrcA1) (s.tap cfg k .iirDestA1) xr .inCoefR
  let b0 := k.iirStage (s.tap cfg k .iirSrcB0) (s.tap cfg k .iirDestB0) xl .inCoefL
  let b1 := k.iirStage (s.tap cfg k .iirSrcB1) (s.tap cfg k .iirDestB1) xr .inCoefR
  (((s.setTap cfg k .iirDestA0 1 a0).setTap cfg k .iirDestA1 1 a1).setTap cfg k .iirDestB0 1 b0).setTap cfg k .iirDestB1 1 b1

/-- The mixing part of an odd tick (R230 to R233): accumulator and feedback taps are read, then the four writes in the order
A0, A1, B0, B1. -/
def State.reverbMix (cfg : Config) (s : State) (k : Core) : State :=
  let acc0 := k.accRaw (s.tap cfg k .accSrcA0) (s.tap cfg k .accSrcB0) (s.tap cfg k .accSrcC0) (s.tap cfg k .accSrcD0)
  let acc1 := k.accRaw (s.tap cfg k .accSrcA1) (s.tap cfg k .accSrcB1) (s.tap cfg k .accSrcC1) (s.tap cfg k .accSrcD1)
  let fa0 := s.tap cfg k .fbSrcA0
  let fa1 := s.tap cfg k .fbSrcA1
  let fb0 := s.tap cfg k .fbSrcB0
  let fb1 := s.tap cfg k .fbSrcB1
  (((s.setTap cfg k .mixDestA0 0 (k.mixDestA acc0 fa0)).setTap cfg k .mixDestA1 0 (k.mixDestA acc1 fa1)).setTap
    cfg k .mixDestB0 0 (k.mixDestB acc0 fa0 fb0)).setTap cfg k .mixDestB1 0 (k.mixDestB acc1 fa1 fb1)

/-- The output of an odd tick, read back after all writes (R234). -/
def State.reverbReadback (cfg : Config) (s : State) (k : Core) : Sig :=
  ⟨sat16 (s.tap cfg k .mixDestA0 + s.tap cfg k .mixDestB0), sat16 (s.tap cfg k .mixDestA1 + s.tap cfg k .mixDestB1)⟩

/-- The cursor after an odd tick (R235). -/
def Core.nextCursor (k : Core) : Addr := BitVec.ofNat 20 ((k.revCursor.toNat + 1) % k.bufferLen)

/-- Odd tick (R224): the whole network, in the access order of R227. -/
def State.reverbOdd (cfg : Config) (s : State) (c : CoreId) (input : Sig) : State × Sig :=
  let k := s.core c
  let xl := (cfg.reverbLpf k.revHeld.l (toI16 input.l)).toInt
  let xr := (cfg.reverbLpf k.revHeld.r (toI16 input.r)).toInt
  let s1 := (s.reverbIir cfg k xl xr).reverbMix cfg k
  let rv := s1.reverbReadback cfg k
  (s1.modCore c fun k1 => { k1 with revLast := ⟨toI16 rv.l, toI16 rv.r⟩, revCursor := k.nextCursor }, rv)

/-- `reverb_tick(c, in)` (R220): the phase is bit 0 of the tick counter as it stands during the tick (R222). -/
def State.reverbTick (cfg : Config) (s : State) (c : CoreId) (input : Sig) : State × Sig :=
  if s.tick.getLsbD 0 then s.reverbOdd cfg c input else s.reverbEven c input

end Sys2Proof.Machine
end

