-- ==== Sys2Proof/Machine/Mixer.lean ====
section
/-! DEFINITION. The mix of one core (43_volume_mixer.md R198 to R209). -/

namespace Sys2Proof.Machine

/-- The four voice sums (R199): exact integers until they are saturated. -/
structure Sums where
  dry : Sig
  wet : Sig
deriving DecidableEq, Repr

/-- Adds a voice's contribution under its four routing bits (R199). -/
def Sums.add (k : Core) (v : VoiceId) (x : Sig) (a : Sums) : Sums :=
  { dry := ⟨a.dry.l + gate (maskBit k.vmixDl v) x.l, a.dry.r + gate (maskBit k.vmixDr v) x.r⟩
    wet := ⟨a.wet.l + gate (maskBit k.vmixWl v) x.l, a.wet.r + gate (maskBit k.vmixWr v) x.r⟩ }

/-- One voice of the sum: it is ticked whether or not it is routed (R199). -/
def sumVoice (cfg : Config) (c : CoreId) (acc : State × Sums) (v : VoiceId) : State × Sums :=
  let t := acc.1.voiceTick cfg c v
  (t.1, acc.2.add (t.1.core c) v t.2)

def satSig (x : Sig) : Sig := ⟨sat16 x.l, sat16 x.r⟩

/-- `voice_sums(c)` (R199): voices 0..23 in order, saturated once after the last. -/
def State.voiceSums (cfg : Config) (s : State) (c : CoreId) : State × Sums :=
  let t := voiceIds.foldl (sumVoice cfg c) (s, ⟨silence, silence⟩)
  (t.1, ⟨satSig t.2.dry, satSig t.2.wet⟩)

/-- A signal through a volume slide: `(x * value) >> 15` per channel (R200, R202, R204). -/
def scale (x : Sig) (l r : Slide) : Sig := ⟨asr (x.l * l.value.toInt) 15, asr (x.r * r.value.toInt) 15⟩

/-- The input volume (R200). -/
def Core.inputVolume (k : Core) (x : Sig) : Sig := scale x k.ivolL k.ivolR

/-- The twelve path gates (R201, bits of 10_state.md R48). -/
def Core.gates (k : Core) (vd vw iv ext : Sig) : Sums :=
  let g (i : Nat) (x : Int) : Int := gate (k.mmix.getLsbD i) x
  { dry := ⟨sat16 (g 11 vd.l + g 7 iv.l + g 3 ext.l), sat16 (g 10 vd.r + g 6 iv.r + g 2 ext.r)⟩
    wet := ⟨sat16 (g 9 vw.l + g 5 iv.l + g 1 ext.l), sat16 (g 8 vw.r + g 4 iv.r + g 0 ext.r)⟩ }

/-- The effects return of a reverb result: ×2, saturated, then the effects volume (R202). -/
def Core.effectsReturn (k : Core) (rv : Sig) : Sig := scale ⟨sat16 (2 * rv.l), sat16 (2 * rv.r)⟩ k.evolL k.evolR

/-- The pre-master value: with effects on the dry sum plus the effects return (R202), with effects off the dry sum, the reverb
untouched (R203). -/
def State.preMaster (cfg : Config) (s : State) (c : CoreId) (x : Sums) : State × Sig :=
  if (s.core c).fxEn then
    let t := s.reverbTick cfg c x.wet
    let e := (s.core c).effectsReturn t.2
    (t.1, ⟨sat16 (x.dry.l + e.l), sat16 (x.dry.r + e.r)⟩)
  else (s, x.dry)

/-- Master volume (R204). -/
def Core.master (k : Core) (x : Sig) : Sig := satSig (scale x k.mvolL k.mvolR)

/-- The six core slides step once per tick (R205) and the ring position advances (R209). -/
def Core.finishMix (cfg : Config) (k : Core) : Core :=
  { k with
    mvolL := slideStep cfg k.mvolL
    mvolR := slideStep cfg k.mvolR
    evolL := slideStep cfg k.evolL
    evolR := slideStep cfg k.evolR
    ivolL := slideStep cfg k.ivolL
    ivolR := slideStep cfg k.ivolR
    outPos := (k.outPos + 1) % cfg.outRingLen }

/-- `mix_core(c, ext, inp)` (R198). -/
def State.mixCore (cfg : Config) (s : State) (c : CoreId) (ext inp : Sig) : State × Sig :=
  let v := s.voiceSums cfg c
  let k := v.1.core c
  let sums := k.gates v.2.dry v.2.wet (k.inputVolume inp) ext
  let p := v.1.preMaster cfg c sums
  (p.1.modCore c (Core.finishMix cfg), (p.1.core c).master p.2)

end Sys2Proof.Machine
end

