-- ==== Sys2Proof/Machine/Tick.lean ====
section
/-! DEFINITION. The sample tick (45_commands.md R290). -/

namespace Sys2Proof.Machine

/-- Both noise generators step once, before any voice (R290, 41_voice_pipeline.md R158). -/
def State.stepNoise (cfg : Config) (s : State) : State :=
  { s with core0 := { s.core0 with noise := cfg.noiseStep s.core0.noise }
           core1 := { s.core1 with noise := cfg.noiseStep s.core1.noise } }

/-- The external input of core 0 and the sound-data inputs of both (30_encoding.md R99). -/
def State.ext0 (s : State) : Sig := ⟨s.io.inputs.extL.toInt, s.io.inputs.extR.toInt⟩
def State.snd0 (s : State) : Sig := ⟨s.io.inputs.snd0L.toInt, s.io.inputs.snd0R.toInt⟩
def State.snd1 (s : State) : Sig := ⟨s.io.inputs.snd1L.toInt, s.io.inputs.snd1R.toInt⟩

/-- `out_l`, `out_r` take the sample and `out_push` occurs once (30_encoding.md R91). -/
def State.push (s : State) (x : Sig) : State :=
  let y : Stereo := ⟨toI16 x.l, toI16 x.r⟩
  { s with out := y, io := { s.io with pushes := y :: s.io.pushes } }

/-- The two mixes of a tick: core 0 wholly before core 1, whose external input is core 0's output (43_volume_mixer.md R206). -/
def State.mixBoth (cfg : Config) (s : State) : State × Sig :=
  let m0 := s.mixCore cfg .c0 s.ext0 s.snd0
  m0.1.mixCore cfg .c1 m0.2 s.snd1

/-- `TICK` (45_commands.md R290). -/
def State.runTick (cfg : Config) (s : State) : State :=
  let m := (s.stepNoise cfg).mixBoth cfg
  let t := m.1.push m.2
  { t with tick := t.tick + 1 }

end Sys2Proof.Machine
end

