-- ==== Sys2Proof/Machine/Control.lean ====
section
/-! DEFINITION. The commands beside `WREG`: `NOP`, `RREG`, `DMAW` and its payload words, `TICK`, `RESET` (45_commands.md R250,
R252, R283 to R285, R290). -/

namespace Sys2Proof.Machine

/-- `NOP` (R250): nothing. -/
def execNop (s : State) : Host.Outcome State Fault Refusal := .next s

/-- What a read of a register returns (R283): live state for the registers the rule lists, the shadow for every other. `reg` is
the register's index. -/
def State.readReg (s : State) (c : CoreId) (reg : BitVec 9) : Reg → Half
  | .voice v .envx => 0#1 ++ (s.voice c v).adsr.value.extractLsb' 16 15
  | .voice v .volxl => (s.voice c v).volL.value
  | .voice v .volxr => (s.voice c v).volR.value
  | .voice v .naxHi => addrHi (s.voice c v).nextAddr
  | .voice v .naxLo => addrLo (s.voice c v).nextAddr
  | .voice v .lsaHi => addrHi (s.voice c v).loopStartAddr
  | .voice v .lsaLo => addrLo (s.voice c v).loopStartAddr
  | .core .stat => s.statWord c
  | .core .endxLo => maskLo (s.core c).endx
  | .core .endxHi => maskHi (s.core c).endx
  | .core .mvolxl => (s.core c).mvolL.value
  | .core .mvolxr => (s.core c).mvolR.value
  | _ => s.shadowAt c reg

/-- `RREG` (R283): `rsp_data` takes the value and nothing else changes; a reserved index is an illegal command, code 3. -/
def execRreg (c : CoreId) (reg : BitVec 9) (s : State) : Host.Outcome State Fault Refusal :=
  match regOfIndex reg with
  | none => .next (flagErr .reservedRegister s)
  | some r => .next { s with rspData := s.readReg c reg r }

/-- `DMAW`, the header word (R284). -/
def execDmaw (c : CoreId) (n : Half) (s : State) : Host.Outcome State Fault Refusal :=
  .next { s with burstRemaining := n, burstCore := c }

/-- A payload word of a burst (R285): one host memory write of its low 16 bits through the burst's core. -/
def State.payload (cfg : Config) (s : State) (w : CmdWord) : State :=
  let t := s.hostMemWrite cfg s.burstCore (dataField w)
  { t with burstRemaining := t.burstRemaining - 1#16 }

/-- `TICK` (R290). -/
def execTick (s : State) : Host.Outcome State Fault Refusal := .next (s.runTick config)

/-- `RESET` (R252). -/
def execReset (s : State) : Host.Outcome State Fault Refusal := .next (resetKeepingMem config s)

end Sys2Proof.Machine
end

