-- ==== Sys2Proof/Machine/WregCore.lean ====
section
/-! DEFINITION. `WREG` of the 38 core globals (45_commands.md R254, R263 to R279, R281): one meaning each, over
`State.wregCore`. -/

namespace Sys2Proof.Machine

/-- `WREG.PMON_LO` (R263). -/
def execWregPmonLo (c : CoreId) (d : Half) (s : State) : Host.Outcome State Fault Refusal :=
  .next (s.wregCore c 0x180#9 d fun k => { k with pmon := withMaskLo k.pmon d })

/-- `WREG.PMON_HI` (R263). -/
def execWregPmonHi (c : CoreId) (d : Half) (s : State) : Host.Outcome State Fault Refusal :=
  .next (s.wregCore c 0x181#9 d fun k => { k with pmon := withMaskHi k.pmon d })

/-- `WREG.NON_LO` (R264). -/
def execWregNonLo (c : CoreId) (d : Half) (s : State) : Host.Outcome State Fault Refusal :=
  .next (s.wregCore c 0x182#9 d fun k => { k with non := withMaskLo k.non d })

/-- `WREG.NON_HI` (R264). -/
def execWregNonHi (c : CoreId) (d : Half) (s : State) : Host.Outcome State Fault Refusal :=
  .next (s.wregCore c 0x183#9 d fun k => { k with non := withMaskHi k.non d })

/-- `WREG.VMIXL_LO` (R265). -/
def execWregVmixlLo (c : CoreId) (d : Half) (s : State) : Host.Outcome State Fault Refusal :=
  .next (s.wregCore c 0x184#9 d fun k => { k with vmixDl := withMaskLo k.vmixDl d })

/-- `WREG.VMIXL_HI` (R265). -/
def execWregVmixlHi (c : CoreId) (d : Half) (s : State) : Host.Outcome State Fault Refusal :=
  .next (s.wregCore c 0x185#9 d fun k => { k with vmixDl := withMaskHi k.vmixDl d })

/-- `WREG.VMIXR_LO` (R266). -/
def execWregVmixrLo (c : CoreId) (d : Half) (s : State) : Host.Outcome State Fault Refusal :=
  .next (s.wregCore c 0x186#9 d fun k => { k with vmixDr := withMaskLo k.vmixDr d })

/-- `WREG.VMIXR_HI` (R266). -/
def execWregVmixrHi (c : CoreId) (d : Half) (s : State) : Host.Outcome State Fault Refusal :=
  .next (s.wregCore c 0x187#9 d fun k => { k with vmixDr := withMaskHi k.vmixDr d })

/-- `WREG.VMIXEL_LO` (R267). -/
def execWregVmixelLo (c : CoreId) (d : Half) (s : State) : Host.Outcome State Fault Refusal :=
  .next (s.wregCore c 0x188#9 d fun k => { k with vmixWl := withMaskLo k.vmixWl d })

/-- `WREG.VMIXEL_HI` (R267). -/
def execWregVmixelHi (c : CoreId) (d : Half) (s : State) : Host.Outcome State Fault Refusal :=
  .next (s.wregCore c 0x189#9 d fun k => { k with vmixWl := withMaskHi k.vmixWl d })

/-- `WREG.VMIXER_LO` (R268). -/
def execWregVmixerLo (c : CoreId) (d : Half) (s : State) : Host.Outcome State Fault Refusal :=
  .next (s.wregCore c 0x18A#9 d fun k => { k with vmixWr := withMaskLo k.vmixWr d })

/-- `WREG.VMIXER_HI` (R268). -/
def execWregVmixerHi (c : CoreId) (d : Half) (s : State) : Host.Outcome State Fault Refusal :=
  .next (s.wregCore c 0x18B#9 d fun k => { k with vmixWr := withMaskHi k.vmixWr d })

/-- `WREG.MMIX` (R269). -/
def execWregMmix (c : CoreId) (d : Half) (s : State) : Host.Outcome State Fault Refusal :=
  .next (s.wregCore c 0x18C#9 d fun k => { k with mmix := d.extractLsb' 0 12 })

/-- `WREG.ATTR` (R270). -/
def execWregAttr (c : CoreId) (d : Half) (s : State) : Host.Outcome State Fault Refusal :=
  .next (s.wregCore c 0x18D#9 d fun k => writeAttr d k)

/-- `WREG.IRQA_HI` (R275); performs no match check. -/
def execWregIrqaHi (c : CoreId) (d : Half) (s : State) : Host.Outcome State Fault Refusal :=
  .next (s.wregCore c 0x18E#9 d fun k => { k with irqAddr := withAddrHi k.irqAddr d })

/-- `WREG.IRQA_LO` (R275); performs no match check. -/
def execWregIrqaLo (c : CoreId) (d : Half) (s : State) : Host.Outcome State Fault Refusal :=
  .next (s.wregCore c 0x18F#9 d fun k => { k with irqAddr := withAddrLo k.irqAddr d })

/-- `WREG.KON_LO` (R271). -/
def execWregKonLo (c : CoreId) (d : Half) (s : State) : Host.Outcome State Fault Refusal :=
  .next (s.wregCore c 0x190#9 d fun k => k.forMask (loMask d) (Core.keyOn config))

/-- `WREG.KON_HI` (R272); d[15:8] ignored. -/
def execWregKonHi (c : CoreId) (d : Half) (s : State) : Host.Outcome State Fault Refusal :=
  .next (s.wregCore c 0x191#9 d fun k => k.forMask (hiMask d) (Core.keyOn config))

/-- `WREG.KOFF_LO` (R273). -/
def execWregKoffLo (c : CoreId) (d : Half) (s : State) : Host.Outcome State Fault Refusal :=
  .next (s.wregCore c 0x192#9 d fun k => k.forMask (loMask d) Core.keyOff)

/-- `WREG.KOFF_HI` (R274); d[15:8] ignored. -/
def execWregKoffHi (c : CoreId) (d : Half) (s : State) : Host.Outcome State Fault Refusal :=
  .next (s.wregCore c 0x193#9 d fun k => k.forMask (hiMask d) Core.keyOff)

/-- `WREG.TSA_HI` (R276); reloads `tda` from the new `tsa`. -/
def execWregTsaHi (c : CoreId) (d : Half) (s : State) : Host.Outcome State Fault Refusal :=
  .next (s.wregCore c 0x194#9 d fun k => { k with tsa := withAddrHi k.tsa d, tda := withAddrHi k.tsa d })

/-- `WREG.TSA_LO` (R276); reloads `tda` from the new `tsa`. -/
def execWregTsaLo (c : CoreId) (d : Half) (s : State) : Host.Outcome State Fault Refusal :=
  .next (s.wregCore c 0x195#9 d fun k => { k with tsa := withAddrLo k.tsa d, tda := withAddrLo k.tsa d })

/-- `WREG.DATA` (R281): the shadow takes `d`, then one host memory write. -/
def execWregData (c : CoreId) (d : Half) (s : State) : Host.Outcome State Fault Refusal :=
  .next ((s.setShadow c 0x196#9 d).hostMemWrite config c d)

/-- `WREG.STAT`: read-only, the write is ignored, the shadow included (R254). -/
def execWregStat (_c : CoreId) (_d : Half) (s : State) : Host.Outcome State Fault Refusal := .next s

/-- `WREG.ENDX_LO` (R277); clears all 24 bits, whatever `d`. -/
def execWregEndxLo (c : CoreId) (d : Half) (s : State) : Host.Outcome State Fault Refusal :=
  .next (s.wregCore c 0x198#9 d fun k => { k with endx := 0#24 })

/-- `WREG.ENDX_HI` (R277); clears all 24 bits, whatever `d`. -/
def execWregEndxHi (c : CoreId) (d : Half) (s : State) : Host.Outcome State Fault Refusal :=
  .next (s.wregCore c 0x199#9 d fun k => { k with endx := 0#24 })

/-- `WREG.MVOLL` (R278). -/
def execWregMvoll (c : CoreId) (d : Half) (s : State) : Host.Outcome State Fault Refusal :=
  .next (s.wregCore c 0x19A#9 d fun k => { k with mvolL := writeSlide d k.mvolL })

/-- `WREG.MVOLR` (R278). -/
def execWregMvolr (c : CoreId) (d : Half) (s : State) : Host.Outcome State Fault Refusal :=
  .next (s.wregCore c 0x19B#9 d fun k => { k with mvolR := writeSlide d k.mvolR })

/-- `WREG.EVOLL` (R278). -/
def execWregEvoll (c : CoreId) (d : Half) (s : State) : Host.Outcome State Fault Refusal :=
  .next (s.wregCore c 0x19C#9 d fun k => { k with evolL := writeSlide d k.evolL })

/-- `WREG.EVOLR` (R278). -/
def execWregEvolr (c : CoreId) (d : Half) (s : State) : Host.Outcome State Fault Refusal :=
  .next (s.wregCore c 0x19D#9 d fun k => { k with evolR := writeSlide d k.evolR })

/-- `WREG.IVOLL` (R278). -/
def execWregIvoll (c : CoreId) (d : Half) (s : State) : Host.Outcome State Fault Refusal :=
  .next (s.wregCore c 0x19E#9 d fun k => { k with ivolL := writeSlide d k.ivolL })

/-- `WREG.IVOLR` (R278). -/
def execWregIvolr (c : CoreId) (d : Half) (s : State) : Host.Outcome State Fault Refusal :=
  .next (s.wregCore c 0x19F#9 d fun k => { k with ivolR := writeSlide d k.ivolR })

/-- `WREG.MVOLXL`: read-only, the write is ignored, the shadow included (R254). -/
def execWregMvolxl (_c : CoreId) (_d : Half) (s : State) : Host.Outcome State Fault Refusal := .next s

/-- `WREG.MVOLXR`: read-only, the write is ignored, the shadow included (R254). -/
def execWregMvolxr (_c : CoreId) (_d : Half) (s : State) : Host.Outcome State Fault Refusal := .next s

/-- `WREG.ESA_HI` (R279). -/
def execWregEsaHi (c : CoreId) (d : Half) (s : State) : Host.Outcome State Fault Refusal :=
  .next (s.wregCore c 0x1A2#9 d fun k => { k with esa := withAddrHi k.esa d })

/-- `WREG.ESA_LO` (R279). -/
def execWregEsaLo (c : CoreId) (d : Half) (s : State) : Host.Outcome State Fault Refusal :=
  .next (s.wregCore c 0x1A3#9 d fun k => { k with esa := withAddrLo k.esa d })

/-- `WREG.EEA_HI` (R279). -/
def execWregEeaHi (c : CoreId) (d : Half) (s : State) : Host.Outcome State Fault Refusal :=
  .next (s.wregCore c 0x1A4#9 d fun k => { k with eea := withAddrHi k.eea d })

/-- `WREG.EEA_LO` (R279). -/
def execWregEeaLo (c : CoreId) (d : Half) (s : State) : Host.Outcome State Fault Refusal :=
  .next (s.wregCore c 0x1A5#9 d fun k => { k with eea := withAddrLo k.eea d })

end Sys2Proof.Machine
end

