-- ==== Sys2Proof/Machine/WregReverb.lean ====
section
/-! DEFINITION. `WREG` of the 48 reverb offset halves (45_commands.md R280) and the 10 reverb coefficients (R282): one meaning
each, over the three shared operations below. -/

namespace Sys2Proof.Machine

/-- Replaces the offset `name` (10_state.md R35). -/
def Core.setOffset (k : Core) (name : RevOff) (a : Addr) : Core := { k with off := k.off.set (offIndex name).val a }

/-- Replaces the coefficient `name` (10_state.md R35). -/
def Core.setCoefficient (k : Core) (name : RevCoef) (x : Half) : Core :=
  { k with coef := k.coef.set (coefIndex name).val x }

/-- `WREG <off>_HI` at its index (R280). -/
def State.wregOffHi (s : State) (c : CoreId) (reg : BitVec 9) (name : RevOff) (d : Half) : State :=
  s.wregCore c reg d fun k => k.setOffset name (withAddrHi (k.offset name) d)

/-- `WREG <off>_LO` at its index (R280). -/
def State.wregOffLo (s : State) (c : CoreId) (reg : BitVec 9) (name : RevOff) (d : Half) : State :=
  s.wregCore c reg d fun k => k.setOffset name (withAddrLo (k.offset name) d)

/-- `WREG <coef>` at its index (R282). -/
def State.wregCoef (s : State) (c : CoreId) (reg : BitVec 9) (name : RevCoef) (d : Half) : State :=
  s.wregCore c reg d fun k => k.setCoefficient name d

/-- `WREG.IIR_SRC_A0_HI` (R280). -/
def execWregIirSrcA0Hi (c : CoreId) (d : Half) (s : State) : Host.Outcome State Fault Refusal :=
  .next (s.wregOffHi c 0x1C0#9 .iirSrcA0 d)

/-- `WREG.IIR_SRC_A0_LO` (R280). -/
def execWregIirSrcA0Lo (c : CoreId) (d : Half) (s : State) : Host.Outcome State Fault Refusal :=
  .next (s.wregOffLo c 0x1C1#9 .iirSrcA0 d)

/-- `WREG.IIR_SRC_A1_HI` (R280). -/
def execWregIirSrcA1Hi (c : CoreId) (d : Half) (s : State) : Host.Outcome State Fault Refusal :=
  .next (s.wregOffHi c 0x1C2#9 .iirSrcA1 d)

/-- `WREG.IIR_SRC_A1_LO` (R280). -/
def execWregIirSrcA1Lo (c : CoreId) (d : Half) (s : State) : Host.Outcome State Fault Refusal :=
  .next (s.wregOffLo c 0x1C3#9 .iirSrcA1 d)

/-- `WREG.IIR_SRC_B0_HI` (R280). -/
def execWregIirSrcB0Hi (c : CoreId) (d : Half) (s : State) : Host.Outcome State Fault Refusal :=
  .next (s.wregOffHi c 0x1C4#9 .iirSrcB0 d)

/-- `WREG.IIR_SRC_B0_LO` (R280). -/
def execWregIirSrcB0Lo (c : CoreId) (d : Half) (s : State) : Host.Outcome State Fault Refusal :=
  .next (s.wregOffLo c 0x1C5#9 .iirSrcB0 d)

/-- `WREG.IIR_SRC_B1_HI` (R280). -/
def execWregIirSrcB1Hi (c : CoreId) (d : Half) (s : State) : Host.Outcome State Fault Refusal :=
  .next (s.wregOffHi c 0x1C6#9 .iirSrcB1 d)

/-- `WREG.IIR_SRC_B1_LO` (R280). -/
def execWregIirSrcB1Lo (c : CoreId) (d : Half) (s : State) : Host.Outcome State Fault Refusal :=
  .next (s.wregOffLo c 0x1C7#9 .iirSrcB1 d)

/-- `WREG.IIR_DEST_A0_HI` (R280). -/
def execWregIirDestA0Hi (c : CoreId) (d : Half) (s : State) : Host.Outcome State Fault Refusal :=
  .next (s.wregOffHi c 0x1C8#9 .iirDestA0 d)

/-- `WREG.IIR_DEST_A0_LO` (R280). -/
def execWregIirDestA0Lo (c : CoreId) (d : Half) (s : State) : Host.Outcome State Fault Refusal :=
  .next (s.wregOffLo c 0x1C9#9 .iirDestA0 d)

/-- `WREG.IIR_DEST_A1_HI` (R280). -/
def execWregIirDestA1Hi (c : CoreId) (d : Half) (s : State) : Host.Outcome State Fault Refusal :=
  .next (s.wregOffHi c 0x1CA#9 .iirDestA1 d)

/-- `WREG.IIR_DEST_A1_LO` (R280). -/
def execWregIirDestA1Lo (c : CoreId) (d : Half) (s : State) : Host.Outcome State Fault Refusal :=
  .next (s.wregOffLo c 0x1CB#9 .iirDestA1 d)

/-- `WREG.IIR_DEST_B0_HI` (R280). -/
def execWregIirDestB0Hi (c : CoreId) (d : Half) (s : State) : Host.Outcome State Fault Refusal :=
  .next (s.wregOffHi c 0x1CC#9 .iirDestB0 d)

/-- `WREG.IIR_DEST_B0_LO` (R280). -/
def execWregIirDestB0Lo (c : CoreId) (d : Half) (s : State) : Host.Outcome State Fault Refusal :=
  .next (s.wregOffLo c 0x1CD#9 .iirDestB0 d)

/-- `WREG.IIR_DEST_B1_HI` (R280). -/
def execWregIirDestB1Hi (c : CoreId) (d : Half) (s : State) : Host.Outcome State Fault Refusal :=
  .next (s.wregOffHi c 0x1CE#9 .iirDestB1 d)

/-- `WREG.IIR_DEST_B1_LO` (R280). -/
def execWregIirDestB1Lo (c : CoreId) (d : Half) (s : State) : Host.Outcome State Fault Refusal :=
  .next (s.wregOffLo c 0x1CF#9 .iirDestB1 d)

/-- `WREG.ACC_SRC_A0_HI` (R280). -/
def execWregAccSrcA0Hi (c : CoreId) (d : Half) (s : State) : Host.Outcome State Fault Refusal :=
  .next (s.wregOffHi c 0x1D0#9 .accSrcA0 d)

/-- `WREG.ACC_SRC_A0_LO` (R280). -/
def execWregAccSrcA0Lo (c : CoreId) (d : Half) (s : State) : Host.Outcome State Fault Refusal :=
  .next (s.wregOffLo c 0x1D1#9 .accSrcA0 d)

/-- `WREG.ACC_SRC_A1_HI` (R280). -/
def execWregAccSrcA1Hi (c : CoreId) (d : Half) (s : State) : Host.Outcome State Fault Refusal :=
  .next (s.wregOffHi c 0x1D2#9 .accSrcA1 d)

/-- `WREG.ACC_SRC_A1_LO` (R280). -/
def execWregAccSrcA1Lo (c : CoreId) (d : Half) (s : State) : Host.Outcome State Fault Refusal :=
  .next (s.wregOffLo c 0x1D3#9 .accSrcA1 d)

/-- `WREG.ACC_SRC_B0_HI` (R280). -/
def execWregAccSrcB0Hi (c : CoreId) (d : Half) (s : State) : Host.Outcome State Fault Refusal :=
  .next (s.wregOffHi c 0x1D4#9 .accSrcB0 d)

/-- `WREG.ACC_SRC_B0_LO` (R280). -/
def execWregAccSrcB0Lo (c : CoreId) (d : Half) (s : State) : Host.Outcome State Fault Refusal :=
  .next (s.wregOffLo c 0x1D5#9 .accSrcB0 d)

/-- `WREG.ACC_SRC_B1_HI` (R280). -/
def execWregAccSrcB1Hi (c : CoreId) (d : Half) (s : State) : Host.Outcome State Fault Refusal :=
  .next (s.wregOffHi c 0x1D6#9 .accSrcB1 d)

/-- `WREG.ACC_SRC_B1_LO` (R280). -/
def execWregAccSrcB1Lo (c : CoreId) (d : Half) (s : State) : Host.Outcome State Fault Refusal :=
  .next (s.wregOffLo c 0x1D7#9 .accSrcB1 d)

/-- `WREG.ACC_SRC_C0_HI` (R280). -/
def execWregAccSrcC0Hi (c : CoreId) (d : Half) (s : State) : Host.Outcome State Fault Refusal :=
  .next (s.wregOffHi c 0x1D8#9 .accSrcC0 d)

/-- `WREG.ACC_SRC_C0_LO` (R280). -/
def execWregAccSrcC0Lo (c : CoreId) (d : Half) (s : State) : Host.Outcome State Fault Refusal :=
  .next (s.wregOffLo c 0x1D9#9 .accSrcC0 d)

/-- `WREG.ACC_SRC_C1_HI` (R280). -/
def execWregAccSrcC1Hi (c : CoreId) (d : Half) (s : State) : Host.Outcome State Fault Refusal :=
  .next (s.wregOffHi c 0x1DA#9 .accSrcC1 d)

/-- `WREG.ACC_SRC_C1_LO` (R280). -/
def execWregAccSrcC1Lo (c : CoreId) (d : Half) (s : State) : Host.Outcome State Fault Refusal :=
  .next (s.wregOffLo c 0x1DB#9 .accSrcC1 d)

/-- `WREG.ACC_SRC_D0_HI` (R280). -/
def execWregAccSrcD0Hi (c : CoreId) (d : Half) (s : State) : Host.Outcome State Fault Refusal :=
  .next (s.wregOffHi c 0x1DC#9 .accSrcD0 d)

/-- `WREG.ACC_SRC_D0_LO` (R280). -/
def execWregAccSrcD0Lo (c : CoreId) (d : Half) (s : State) : Host.Outcome State Fault Refusal :=
  .next (s.wregOffLo c 0x1DD#9 .accSrcD0 d)

/-- `WREG.ACC_SRC_D1_HI` (R280). -/
def execWregAccSrcD1Hi (c : CoreId) (d : Half) (s : State) : Host.Outcome State Fault Refusal :=
  .next (s.wregOffHi c 0x1DE#9 .accSrcD1 d)

/-- `WREG.ACC_SRC_D1_LO` (R280). -/
def execWregAccSrcD1Lo (c : CoreId) (d : Half) (s : State) : Host.Outcome State Fault Refusal :=
  .next (s.wregOffLo c 0x1DF#9 .accSrcD1 d)

/-- `WREG.FB_SRC_A0_HI` (R280). -/
def execWregFbSrcA0Hi (c : CoreId) (d : Half) (s : State) : Host.Outcome State Fault Refusal :=
  .next (s.wregOffHi c 0x1E0#9 .fbSrcA0 d)

/-- `WREG.FB_SRC_A0_LO` (R280). -/
def execWregFbSrcA0Lo (c : CoreId) (d : Half) (s : State) : Host.Outcome State Fault Refusal :=
  .next (s.wregOffLo c 0x1E1#9 .fbSrcA0 d)

/-- `WREG.FB_SRC_A1_HI` (R280). -/
def execWregFbSrcA1Hi (c : CoreId) (d : Half) (s : State) : Host.Outcome State Fault Refusal :=
  .next (s.wregOffHi c 0x1E2#9 .fbSrcA1 d)

/-- `WREG.FB_SRC_A1_LO` (R280). -/
def execWregFbSrcA1Lo (c : CoreId) (d : Half) (s : State) : Host.Outcome State Fault Refusal :=
  .next (s.wregOffLo c 0x1E3#9 .fbSrcA1 d)

/-- `WREG.FB_SRC_B0_HI` (R280). -/
def execWregFbSrcB0Hi (c : CoreId) (d : Half) (s : State) : Host.Outcome State Fault Refusal :=
  .next (s.wregOffHi c 0x1E4#9 .fbSrcB0 d)

/-- `WREG.FB_SRC_B0_LO` (R280). -/
def execWregFbSrcB0Lo (c : CoreId) (d : Half) (s : State) : Host.Outcome State Fault Refusal :=
  .next (s.wregOffLo c 0x1E5#9 .fbSrcB0 d)

/-- `WREG.FB_SRC_B1_HI` (R280). -/
def execWregFbSrcB1Hi (c : CoreId) (d : Half) (s : State) : Host.Outcome State Fault Refusal :=
  .next (s.wregOffHi c 0x1E6#9 .fbSrcB1 d)

/-- `WREG.FB_SRC_B1_LO` (R280). -/
def execWregFbSrcB1Lo (c : CoreId) (d : Half) (s : State) : Host.Outcome State Fault Refusal :=
  .next (s.wregOffLo c 0x1E7#9 .fbSrcB1 d)

/-- `WREG.MIX_DEST_A0_HI` (R280). -/
def execWregMixDestA0Hi (c : CoreId) (d : Half) (s : State) : Host.Outcome State Fault Refusal :=
  .next (s.wregOffHi c 0x1E8#9 .mixDestA0 d)

/-- `WREG.MIX_DEST_A0_LO` (R280). -/
def execWregMixDestA0Lo (c : CoreId) (d : Half) (s : State) : Host.Outcome State Fault Refusal :=
  .next (s.wregOffLo c 0x1E9#9 .mixDestA0 d)

/-- `WREG.MIX_DEST_A1_HI` (R280). -/
def execWregMixDestA1Hi (c : CoreId) (d : Half) (s : State) : Host.Outcome State Fault Refusal :=
  .next (s.wregOffHi c 0x1EA#9 .mixDestA1 d)

/-- `WREG.MIX_DEST_A1_LO` (R280). -/
def execWregMixDestA1Lo (c : CoreId) (d : Half) (s : State) : Host.Outcome State Fault Refusal :=
  .next (s.wregOffLo c 0x1EB#9 .mixDestA1 d)

/-- `WREG.MIX_DEST_B0_HI` (R280). -/
def execWregMixDestB0Hi (c : CoreId) (d : Half) (s : State) : Host.Outcome State Fault Refusal :=
  .next (s.wregOffHi c 0x1EC#9 .mixDestB0 d)

/-- `WREG.MIX_DEST_B0_LO` (R280). -/
def execWregMixDestB0Lo (c : CoreId) (d : Half) (s : State) : Host.Outcome State Fault Refusal :=
  .next (s.wregOffLo c 0x1ED#9 .mixDestB0 d)

/-- `WREG.MIX_DEST_B1_HI` (R280). -/
def execWregMixDestB1Hi (c : CoreId) (d : Half) (s : State) : Host.Outcome State Fault Refusal :=
  .next (s.wregOffHi c 0x1EE#9 .mixDestB1 d)

/-- `WREG.MIX_DEST_B1_LO` (R280). -/
def execWregMixDestB1Lo (c : CoreId) (d : Half) (s : State) : Host.Outcome State Fault Refusal :=
  .next (s.wregOffLo c 0x1EF#9 .mixDestB1 d)

/-- `WREG.IIR_ALPHA` (R282). -/
def execWregIirAlpha (c : CoreId) (d : Half) (s : State) : Host.Outcome State Fault Refusal :=
  .next (s.wregCoef c 0x1F0#9 .iirAlpha d)

/-- `WREG.IIR_COEF` (R282). -/
def execWregIirCoef (c : CoreId) (d : Half) (s : State) : Host.Outcome State Fault Refusal :=
  .next (s.wregCoef c 0x1F1#9 .iirCoef d)

/-- `WREG.IN_COEF_L` (R282). -/
def execWregInCoefL (c : CoreId) (d : Half) (s : State) : Host.Outcome State Fault Refusal :=
  .next (s.wregCoef c 0x1F2#9 .inCoefL d)

/-- `WREG.IN_COEF_R` (R282). -/
def execWregInCoefR (c : CoreId) (d : Half) (s : State) : Host.Outcome State Fault Refusal :=
  .next (s.wregCoef c 0x1F3#9 .inCoefR d)

/-- `WREG.ACC_COEF_A` (R282). -/
def execWregAccCoefA (c : CoreId) (d : Half) (s : State) : Host.Outcome State Fault Refusal :=
  .next (s.wregCoef c 0x1F4#9 .accCoefA d)

/-- `WREG.ACC_COEF_B` (R282). -/
def execWregAccCoefB (c : CoreId) (d : Half) (s : State) : Host.Outcome State Fault Refusal :=
  .next (s.wregCoef c 0x1F5#9 .accCoefB d)

/-- `WREG.ACC_COEF_C` (R282). -/
def execWregAccCoefC (c : CoreId) (d : Half) (s : State) : Host.Outcome State Fault Refusal :=
  .next (s.wregCoef c 0x1F6#9 .accCoefC d)

/-- `WREG.ACC_COEF_D` (R282). -/
def execWregAccCoefD (c : CoreId) (d : Half) (s : State) : Host.Outcome State Fault Refusal :=
  .next (s.wregCoef c 0x1F7#9 .accCoefD d)

/-- `WREG.FB_ALPHA` (R282). -/
def execWregFbAlpha (c : CoreId) (d : Half) (s : State) : Host.Outcome State Fault Refusal :=
  .next (s.wregCoef c 0x1F8#9 .fbAlpha d)

/-- `WREG.FB_X` (R282). -/
def execWregFbX (c : CoreId) (d : Half) (s : State) : Host.Outcome State Fault Refusal :=
  .next (s.wregCoef c 0x1F9#9 .fbX d)

end Sys2Proof.Machine
end

