-- ==== Sys2Proof/Machine/WregVoice.lean ====
section
/-! DEFINITION. `WREG` of the 14 voice registers (45_commands.md R254 to R262): one meaning each, over `State.wregVoice`. -/

namespace Sys2Proof.Machine

/-- `WREG.V.VOLL` (R255). -/
def execWregVVoll (c : CoreId) (v : VoiceId) (d : Half) (s : State) : Host.Outcome State Fault Refusal :=
  .next (s.wregVoice c v 0#4 d fun vc => { vc with volL := writeSlide d vc.volL })

/-- `WREG.V.VOLR` (R255). -/
def execWregVVolr (c : CoreId) (v : VoiceId) (d : Half) (s : State) : Host.Outcome State Fault Refusal :=
  .next (s.wregVoice c v 1#4 d fun vc => { vc with volR := writeSlide d vc.volR })

/-- `WREG.V.PITCH` (R257). -/
def execWregVPitch (c : CoreId) (v : VoiceId) (d : Half) (s : State) : Host.Outcome State Fault Refusal :=
  .next (s.wregVoice c v 2#4 d fun vc => { vc with pitch := d })

/-- `WREG.V.ADSR1` (R258). -/
def execWregVAdsr1 (c : CoreId) (v : VoiceId) (d : Half) (s : State) : Host.Outcome State Fault Refusal :=
  .next (s.wregVoice c v 3#4 d fun vc => { vc with adsr := writeAdsr1 d vc.adsr })

/-- `WREG.V.ADSR2` (R259). -/
def execWregVAdsr2 (c : CoreId) (v : VoiceId) (d : Half) (s : State) : Host.Outcome State Fault Refusal :=
  .next (s.wregVoice c v 4#4 d fun vc => { vc with adsr := writeAdsr2 d vc.adsr })

/-- `WREG.V.ENVX`: read-only, the write is ignored, the shadow included (R254). -/
def execWregVEnvx (_c : CoreId) (_v : VoiceId) (_d : Half) (s : State) : Host.Outcome State Fault Refusal := .next s

/-- `WREG.V.SSA_HI` (R260). -/
def execWregVSsaHi (c : CoreId) (v : VoiceId) (d : Half) (s : State) : Host.Outcome State Fault Refusal :=
  .next (s.wregVoice c v 6#4 d fun vc => { vc with startAddr := withAddrHi vc.startAddr d })

/-- `WREG.V.SSA_LO` (R260). -/
def execWregVSsaLo (c : CoreId) (v : VoiceId) (d : Half) (s : State) : Host.Outcome State Fault Refusal :=
  .next (s.wregVoice c v 7#4 d fun vc => { vc with startAddr := withAddrLo vc.startAddr d })

/-- `WREG.V.LSA_HI` (R261). -/
def execWregVLsaHi (c : CoreId) (v : VoiceId) (d : Half) (s : State) : Host.Outcome State Fault Refusal :=
  .next (s.wregVoice c v 8#4 d fun vc => { vc with loopStartAddr := withAddrHi vc.loopStartAddr d })

/-- `WREG.V.LSA_LO` (R261). -/
def execWregVLsaLo (c : CoreId) (v : VoiceId) (d : Half) (s : State) : Host.Outcome State Fault Refusal :=
  .next (s.wregVoice c v 9#4 d fun vc => { vc with loopStartAddr := withAddrLo vc.loopStartAddr d })

/-- `WREG.V.NAX_HI` (R262). -/
def execWregVNaxHi (c : CoreId) (v : VoiceId) (d : Half) (s : State) : Host.Outcome State Fault Refusal :=
  .next (s.wregVoice c v 10#4 d fun vc => { vc with nextAddr := withAddrHi vc.nextAddr d })

/-- `WREG.V.NAX_LO` (R262). -/
def execWregVNaxLo (c : CoreId) (v : VoiceId) (d : Half) (s : State) : Host.Outcome State Fault Refusal :=
  .next (s.wregVoice c v 11#4 d fun vc => { vc with nextAddr := withAddrLo vc.nextAddr d })

/-- `WREG.V.VOLXL`: read-only, the write is ignored, the shadow included (R254). -/
def execWregVVolxl (_c : CoreId) (_v : VoiceId) (_d : Half) (s : State) : Host.Outcome State Fault Refusal := .next s

/-- `WREG.V.VOLXR`: read-only, the write is ignored, the shadow included (R254). -/
def execWregVVolxr (_c : CoreId) (_v : VoiceId) (_d : Half) (s : State) : Host.Outcome State Fault Refusal := .next s

end Sys2Proof.Machine
end

