-- ==== Sys2Proof/Machine/Dispatch.lean ====
section
/-! DEFINITION. The meaning of every instruction, one arm per constructor of `Instr`. -/

namespace Sys2Proof.Machine

def exec (i : Instr) (s : State) : Host.Outcome State Fault Refusal :=
  match i with
  | .nop => Sys2Proof.Machine.execNop s
  | .wregVVoll c v d => Sys2Proof.Machine.execWregVVoll c v d s
  | .wregVVolr c v d => Sys2Proof.Machine.execWregVVolr c v d s
  | .wregVPitch c v d => Sys2Proof.Machine.execWregVPitch c v d s
  | .wregVAdsr1 c v d => Sys2Proof.Machine.execWregVAdsr1 c v d s
  | .wregVAdsr2 c v d => Sys2Proof.Machine.execWregVAdsr2 c v d s
  | .wregVEnvx c v d => Sys2Proof.Machine.execWregVEnvx c v d s
  | .wregVSsaHi c v d => Sys2Proof.Machine.execWregVSsaHi c v d s
  | .wregVSsaLo c v d => Sys2Proof.Machine.execWregVSsaLo c v d s
  | .wregVLsaHi c v d => Sys2Proof.Machine.execWregVLsaHi c v d s
  | .wregVLsaLo c v d => Sys2Proof.Machine.execWregVLsaLo c v d s
  | .wregVNaxHi c v d => Sys2Proof.Machine.execWregVNaxHi c v d s
  | .wregVNaxLo c v d => Sys2Proof.Machine.execWregVNaxLo c v d s
  | .wregVVolxl c v d => Sys2Proof.Machine.execWregVVolxl c v d s
  | .wregVVolxr c v d => Sys2Proof.Machine.execWregVVolxr c v d s
  | .wregPmonLo c d => Sys2Proof.Machine.execWregPmonLo c d s
  | .wregPmonHi c d => Sys2Proof.Machine.execWregPmonHi c d s
  | .wregNonLo c d => Sys2Proof.Machine.execWregNonLo c d s
  | .wregNonHi c d => Sys2Proof.Machine.execWregNonHi c d s
  | .wregVmixlLo c d => Sys2Proof.Machine.execWregVmixlLo c d s
  | .wregVmixlHi c d => Sys2Proof.Machine.execWregVmixlHi c d s
  | .wregVmixrLo c d => Sys2Proof.Machine.execWregVmixrLo c d s
  | .wregVmixrHi c d => Sys2Proof.Machine.execWregVmixrHi c d s
  | .wregVmixelLo c d => Sys2Proof.Machine.execWregVmixelLo c d s
  | .wregVmixelHi c d => Sys2Proof.Machine.execWregVmixelHi c d s
  | .wregVmixerLo c d => Sys2Proof.Machine.execWregVmixerLo c d s
  | .wregVmixerHi c d => Sys2Proof.Machine.execWregVmixerHi c d s
  | .wregMmix c d => Sys2Proof.Machine.execWregMmix c d s
  | .wregAttr c d => Sys2Proof.Machine.execWregAttr c d s
  | .wregIrqaHi c d => Sys2Proof.Machine.execWregIrqaHi c d s
  | .wregIrqaLo c d => Sys2Proof.Machine.execWregIrqaLo c d s
  | .wregKonLo c d => Sys2Proof.Machine.execWregKonLo c d s
  | .wregKonHi c d => Sys2Proof.Machine.execWregKonHi c d s
  | .wregKoffLo c d => Sys2Proof.Machine.execWregKoffLo c d s
  | .wregKoffHi c d => Sys2Proof.Machine.execWregKoffHi c d s
  | .wregTsaHi c d => Sys2Proof.Machine.execWregTsaHi c d s
  | .wregTsaLo c d => Sys2Proof.Machine.execWregTsaLo c d s
  | .wregData c d => Sys2Proof.Machine.execWregData c d s
  | .wregStat c d => Sys2Proof.Machine.execWregStat c d s
  | .wregEndxLo c d => Sys2Proof.Machine.execWregEndxLo c d s
  | .wregEndxHi c d => Sys2Proof.Machine.execWregEndxHi c d s
  | .wregMvoll c d => Sys2Proof.Machine.execWregMvoll c d s
  | .wregMvolr c d => Sys2Proof.Machine.execWregMvolr c d s
  | .wregEvoll c d => Sys2Proof.Machine.execWregEvoll c d s
  | .wregEvolr c d => Sys2Proof.Machine.execWregEvolr c d s
  | .wregIvoll c d => Sys2Proof.Machine.execWregIvoll c d s
  | .wregIvolr c d => Sys2Proof.Machine.execWregIvolr c d s
  | .wregMvolxl c d => Sys2Proof.Machine.execWregMvolxl c d s
  | .wregMvolxr c d => Sys2Proof.Machine.execWregMvolxr c d s
  | .wregEsaHi c d => Sys2Proof.Machine.execWregEsaHi c d s
  | .wregEsaLo c d => Sys2Proof.Machine.execWregEsaLo c d s
  | .wregEeaHi c d => Sys2Proof.Machine.execWregEeaHi c d s
  | .wregEeaLo c d => Sys2Proof.Machine.execWregEeaLo c d s
  | .wregIirSrcA0Hi c d => Sys2Proof.Machine.execWregIirSrcA0Hi c d s
  | .wregIirSrcA0Lo c d => Sys2Proof.Machine.execWregIirSrcA0Lo c d s
  | .wregIirSrcA1Hi c d => Sys2Proof.Machine.execWregIirSrcA1Hi c d s
  | .wregIirSrcA1Lo c d => Sys2Proof.Machine.execWregIirSrcA1Lo c d s
  | .wregIirSrcB0Hi c d => Sys2Proof.Machine.execWregIirSrcB0Hi c d s
  | .wregIirSrcB0Lo c d => Sys2Proof.Machine.execWregIirSrcB0Lo c d s
  | .wregIirSrcB1Hi c d => Sys2Proof.Machine.execWregIirSrcB1Hi c d s
  | .wregIirSrcB1Lo c d => Sys2Proof.Machine.execWregIirSrcB1Lo c d s
  | .wregIirDestA0Hi c d => Sys2Proof.Machine.execWregIirDestA0Hi c d s
  | .wregIirDestA0Lo c d => Sys2Proof.Machine.execWregIirDestA0Lo c d s
  | .wregIirDestA1Hi c d => Sys2Proof.Machine.execWregIirDestA1Hi c d s
  | .wregIirDestA1Lo c d => Sys2Proof.Machine.execWregIirDestA1Lo c d s
  | .wregIirDestB0Hi c d => Sys2Proof.Machine.execWregIirDestB0Hi c d s
  | .wregIirDestB0Lo c d => Sys2Proof.Machine.execWregIirDestB0Lo c d s
  | .wregIirDestB1Hi c d => Sys2Proof.Machine.execWregIirDestB1Hi c d s
  | .wregIirDestB1Lo c d => Sys2Proof.Machine.execWregIirDestB1Lo c d s
  | .wregAccSrcA0Hi c d => Sys2Proof.Machine.execWregAccSrcA0Hi c d s
  | .wregAccSrcA0Lo c d => Sys2Proof.Machine.execWregAccSrcA0Lo c d s
  | .wregAccSrcA1Hi c d => Sys2Proof.Machine.execWregAccSrcA1Hi c d s
  | .wregAccSrcA1Lo c d => Sys2Proof.Machine.execWregAccSrcA1Lo c d s
  | .wregAccSrcB0Hi c d => Sys2Proof.Machine.execWregAccSrcB0Hi c d s
  | .wregAccSrcB0Lo c d => Sys2Proof.Machine.execWregAccSrcB0Lo c d s
  | .wregAccSrcB1Hi c d => Sys2Proof.Machine.execWregAccSrcB1Hi c d s
  | .wregAccSrcB1Lo c d => Sys2Proof.Machine.execWregAccSrcB1Lo c d s
  | .wregAccSrcC0Hi c d => Sys2Proof.Machine.execWregAccSrcC0Hi c d s
  | .wregAccSrcC0Lo c d => Sys2Proof.Machine.execWregAccSrcC0Lo c d s
  | .wregAccSrcC1Hi c d => Sys2Proof.Machine.execWregAccSrcC1Hi c d s
  | .wregAccSrcC1Lo c d => Sys2Proof.Machine.execWregAccSrcC1Lo c d s
  | .wregAccSrcD0Hi c d => Sys2Proof.Machine.execWregAccSrcD0Hi c d s
  | .wregAccSrcD0Lo c d => Sys2Proof.Machine.execWregAccSrcD0Lo c d s
  | .wregAccSrcD1Hi c d => Sys2Proof.Machine.execWregAccSrcD1Hi c d s
  | .wregAccSrcD1Lo c d => Sys2Proof.Machine.execWregAccSrcD1Lo c d s
  | .wregFbSrcA0Hi c d => Sys2Proof.Machine.execWregFbSrcA0Hi c d s
  | .wregFbSrcA0Lo c d => Sys2Proof.Machine.execWregFbSrcA0Lo c d s
  | .wregFbSrcA1Hi c d => Sys2Proof.Machine.execWregFbSrcA1Hi c d s
  | .wregFbSrcA1Lo c d => Sys2Proof.Machine.execWregFbSrcA1Lo c d s
  | .wregFbSrcB0Hi c d => Sys2Proof.Machine.execWregFbSrcB0Hi c d s
  | .wregFbSrcB0Lo c d => Sys2Proof.Machine.execWregFbSrcB0Lo c d s
  | .wregFbSrcB1Hi c d => Sys2Proof.Machine.execWregFbSrcB1Hi c d s
  | .wregFbSrcB1Lo c d => Sys2Proof.Machine.execWregFbSrcB1Lo c d s
  | .wregMixDestA0Hi c d => Sys2Proof.Machine.execWregMixDestA0Hi c d s
  | .wregMixDestA0Lo c d => Sys2Proof.Machine.execWregMixDestA0Lo c d s
  | .wregMixDestA1Hi c d => Sys2Proof.Machine.execWregMixDestA1Hi c d s
  | .wregMixDestA1Lo c d => Sys2Proof.Machine.execWregMixDestA1Lo c d s
  | .wregMixDestB0Hi c d => Sys2Proof.Machine.execWregMixDestB0Hi c d s
  | .wregMixDestB0Lo c d => Sys2Proof.Machine.execWregMixDestB0Lo c d s
  | .wregMixDestB1Hi c d => Sys2Proof.Machine.execWregMixDestB1Hi c d s
  | .wregMixDestB1Lo c d => Sys2Proof.Machine.execWregMixDestB1Lo c d s
  | .wregIirAlpha c d => Sys2Proof.Machine.execWregIirAlpha c d s
  | .wregIirCoef c d => Sys2Proof.Machine.execWregIirCoef c d s
  | .wregInCoefL c d => Sys2Proof.Machine.execWregInCoefL c d s
  | .wregInCoefR c d => Sys2Proof.Machine.execWregInCoefR c d s
  | .wregAccCoefA c d => Sys2Proof.Machine.execWregAccCoefA c d s
  | .wregAccCoefB c d => Sys2Proof.Machine.execWregAccCoefB c d s
  | .wregAccCoefC c d => Sys2Proof.Machine.execWregAccCoefC c d s
  | .wregAccCoefD c d => Sys2Proof.Machine.execWregAccCoefD c d s
  | .wregFbAlpha c d => Sys2Proof.Machine.execWregFbAlpha c d s
  | .wregFbX c d => Sys2Proof.Machine.execWregFbX c d s
  | .rreg c reg => Sys2Proof.Machine.execRreg c reg s
  | .dmaw c n => Sys2Proof.Machine.execDmaw c n s
  | .tick => Sys2Proof.Machine.execTick s
  | .reset => Sys2Proof.Machine.execReset s

end Sys2Proof.Machine
end

