-- ==== Sys2Proof/Machine/Sequencer.lean ====
section
/-! DEFINITION. What the sequencer does with one word on `cmd_word` (00_scope.md R13, 45_commands.md R253). -/

namespace Sys2Proof.Machine

/-- A command word outside a burst (R253): decoded by 30_encoding.md R95; an illegal one flags its code and does nothing else. -/
def commandStep (w : CmdWord) (s : State) : Host.Outcome State Fault Refusal :=
  match decode w with
  | .ok i => exec i s
  | .error e => .next (flagErr e s)

/-- A word on `cmd_word` (R253): inside a burst a payload word whatever its bits (30_encoding.md R94), else a command. -/
def wordStep (w : CmdWord) (s : State) : Host.Outcome State Fault Refusal :=
  if s.burstRemaining = 0#16 then commandStep w s else .next (s.payload config w)

/-- The state in which an event is handled: it is taken off the port and its sample levels stand on the inputs. -/
def State.accept (s : State) (rest : List PortEvent) (inputs : SampleInputs) : State :=
  { s with io := { s.io with pending := rest, inputs := inputs } }

/-- One event on the input ports. -/
def eventStep (e : PortEvent) (rest : List PortEvent) (s : State) : Host.Outcome State Fault Refusal :=
  match e with
  | .rst => .next (powerOn config (s.accept rest s.io.inputs))
  | .word w inputs => wordStep w (s.accept rest inputs)

/-- The next word on the port, with the sample inputs at the levels they have. -/
def State.present (s : State) (w : CmdWord) : State :=
  { s with io := { s.io with pending := .word w s.io.inputs :: s.io.pending } }

end Sys2Proof.Machine
end

