-- ==== Sys2Proof/Machine/Step.lean ====
section
/-! DEFINITION. One step: one event on the input ports (00_scope.md R13, 45_commands.md R253). -/

namespace Sys2Proof.Machine

/-- One step. With no event presented the block is idle and holds all state (60_exceptions.md R315; notes/assumptions/2.md). -/
def step (s : State) : Host.Outcome State Fault Refusal :=
  match s.io.pending with
  | [] => .next s
  | e :: rest => eventStep e rest s

/-- The state in which the word `w` is the next on the port and no burst is in progress, so that the next step runs it as a
command (every row is one 32-bit word; notes/assumptions/1.md). -/
def State.withFetchWord (s : State) (_nbits w : Nat) : State :=
  { s with burstRemaining := 0#16 }.present (BitVec.ofNat 32 w)

end Sys2Proof.Machine
end

