-- ==== Sys2Proof/Safety.lean ====
section
/-! DEFINITION. The terms claims use: what an event leaves unchanged (frames), register writes as arithmetic on the data word, and
the invariants of 10_state.md R38 and R24. Nothing here is part of the machine; no step ever stops (Machine/State.lean, `Fault`),
so a safe run is one whose states meet `State.Inv`. -/

namespace Sys2Proof.Machine

/-! ## Frames -/

/-- The other core. -/
def otherCore : CoreId → CoreId
  | .c0 => .c1
  | .c1 => .c0

/-- Every byte of memory reads as before. -/
def SameMemory (s t : State) : Prop := ∀ b : Nat, t.readByte b = s.readByte b

/-- Every byte of memory reads as before but the two of word `a`: bytes 2a and 2a + 1. -/
def SameMemoryBut (a : Addr) (s t : State) : Prop :=
  ∀ b : Nat, b ≠ 2 * a.toNat → b ≠ 2 * a.toNat + 1 → t.readByte b = s.readByte b

/-- The engine globals of 10_state.md R25 and the ports are as before. -/
def SameGlobals (s t : State) : Prop :=
  t.tick = s.tick ∧ t.cmdErr = s.cmdErr ∧ t.errCode = s.errCode ∧ t.burstRemaining = s.burstRemaining
    ∧ t.burstCore = s.burstCore ∧ t.out = s.out ∧ t.rspData = s.rspData ∧ t.io = s.io

/-- Both cores are as before: every register, flag, voice, slide, address and reverb field of each. -/
def SameCores (s t : State) : Prop := t.core0 = s.core0 ∧ t.core1 = s.core1

/-- Nothing outside core `c` has changed: memory, cache, the other core, the globals, the ports. -/
def SameOutside (c : CoreId) (s t : State) : Prop :=
  SameMemory s t ∧ t.cache = s.cache ∧ t.core (otherCore c) = s.core (otherCore c) ∧ SameGlobals s t

/-- A core without its register shadow and its voices: every other field of it. -/
def Core.control (k : Core) : Core :=
  { k with shadow := Vector.replicate 512 0#16, voices := Vector.replicate 24 {} }

/-- The shadow of core `c` holds `d` at index `i` and what it held everywhere else. -/
def ShadowTakes (c : CoreId) (i : Nat) (d : Half) (s t : State) : Prop :=
  ∀ r : BitVec 9, t.shadowAt c r = if r.toNat = i then d else s.shadowAt c r

/-- Every voice of core `c` is as before. -/
def SameVoices (c : CoreId) (s t : State) : Prop := ∀ w : VoiceId, t.voice c w = s.voice c w

/-- From `s` to `t` the shadow of core `c` took `d` at index v*16 + k, voice `v` became `vc`, and nothing else changed. -/
def VoiceWrite (c : CoreId) (v : VoiceId) (k : Nat) (d : Half) (vc : Voice) (s t : State) : Prop :=
  ShadowTakes c (v.val * 16 + k) d s t ∧ t.voice c v = vc ∧ (∀ w : VoiceId, w ≠ v → t.voice c w = s.voice c w)
    ∧ (t.core c).control = (s.core c).control ∧ SameOutside c s t

/-- From `s` to `t` the shadow of core `c` took `d` at index `i`, the rest of the core but its voices became that of `k`, and
nothing else changed. -/
def ControlWrite (c : CoreId) (i : Nat) (d : Half) (k : Core) (s t : State) : Prop :=
  ShadowTakes c i d s t ∧ SameVoices c s t ∧ (t.core c).control = k.control ∧ SameOutside c s t

/-! ## Register writes as arithmetic on the data word (10_state.md R43 to R46) -/

/-- Bits 19..16 of `a` replaced by `d[3:0]`. -/
def addrWithHi (a : Addr) (d : Half) : Addr := BitVec.ofNat 20 (d.toNat % 16 * 65536 + a.toNat % 65536)

/-- Bits 15..0 of `a` replaced by `d`. -/
def addrWithLo (a : Addr) (d : Half) : Addr := BitVec.ofNat 20 (a.toNat / 65536 * 65536 + d.toNat)

/-- Bits 23..16 of `m` replaced by `d[7:0]`. -/
def maskWithHi (m : VoiceMask) (d : Half) : VoiceMask := BitVec.ofNat 24 (d.toNat % 256 * 65536 + m.toNat % 65536)

/-- Bits 15..0 of `m` replaced by `d`. -/
def maskWithLo (m : VoiceMask) (d : Half) : VoiceMask := BitVec.ofNat 24 (m.toNat / 65536 * 65536 + d.toNat)

/-- `sext_15(d[14:0])` (00_scope.md R8). -/
def sext15 (d : Half) : Int :=
  if d.toNat % 0x8000 < 0x4000 then ((d.toNat % 0x8000 : Nat) : Int) else ((d.toNat % 0x8000 : Nat) : Int) - 0x8000

/-- The slide `x` becomes `y` by a write of `d` to its register (45_commands.md R256). -/
def SlideWritten (d : Half) (x y : Slide) : Prop :=
  if d.toNat < 0x8000 then
    y.fixed = true ∧ y.exp = false ∧ y.dec = false ∧ y.neg = false ∧ y.increment.toNat = 0
      ∧ y.value.toInt = sext15 d * 2
  else
    y.fixed = false ∧ y.exp = d.getLsbD 14 ∧ y.dec = d.getLsbD 13 ∧ y.neg = d.getLsbD 12
      ∧ y.increment.toNat = d.toNat % 128 ∧ y.value = x.value

/-- The voice numbers a `KON_LO` or `KOFF_LO` word selects: v in 0..15 with `d[v] = 1`. -/
def selectedLo (d : Half) (v : VoiceId) : Bool := decide (v.val < 16) && d.getLsbD v.val

/-- The voice numbers a `KON_HI` or `KOFF_HI` word selects: v in 16..23 with `d[v - 16] = 1`. -/
def selectedHi (d : Half) (v : VoiceId) : Bool := decide (16 ≤ v.val) && d.getLsbD (v.val - 16)

/-- The voice `x` becomes `y` by a key-on (41_voice_pipeline.md R152): every field of `y`. -/
def KeyedOn (cfg : Config) (x y : Voice) : Prop :=
  y.adsr = { x.adsr with phase := .attack, value := y.adsr.value, releasing := false }
    ∧ y.adsr.value.toNat = cfg.adsrSeed.toNat
    ∧ y.nextAddr = x.startAddr ∧ y.samplePosFrac = 0#32
    ∧ y.hist.h0 = 0#32 ∧ y.hist.h1 = 0#32 ∧ y.hist.h2 = 0#32 ∧ y.hist.h3 = 0#32
    ∧ y.prev1 = 0#16 ∧ y.prev2 = 0#16 ∧ (∀ i : Fin 28, y.blk[i.val] = 0#16) ∧ y.blkPos.val = 28
    ∧ y.loopFlags = 0#3 ∧ y.lastOutput = 0#32
    ∧ y.startAddr = x.startAddr ∧ y.loopStartAddr = x.loopStartAddr ∧ y.pitch = x.pitch ∧ y.volL = x.volL
    ∧ y.volR = x.volR

/-- The voice `x` becomes `y` by a key-off (41_voice_pipeline.md R153). -/
def KeyedOff (x y : Voice) : Prop :=
  y = if x.adsr.phase = .off then x else { x with adsr := { x.adsr with releasing := true } }

/-- A key event on the voices `sel` of core `c`: the shadow takes `d` at index `i`; each selected voice changes as `event` says,
every other is as before; nothing else changes but, perhaps, ENDX. -/
def KeyWrite (c : CoreId) (i : Nat) (d : Half) (sel : VoiceId → Bool) (event : Voice → Voice → Prop) (s t : State) : Prop :=
  ShadowTakes c i d s t
    ∧ (∀ v, if sel v then event (s.voice c v) (t.voice c v) else t.voice c v = s.voice c v)
    ∧ (t.core c).control = { (s.core c).control with endx := (t.core c).endx }
    ∧ SameOutside c s t

/-- From `s` to `t` one host memory write of `d` through core `c` happened (45_commands.md R281): with `a` the running address of
`c`, the two bytes of word `a` hold `d`, every other byte reads as before; the validity bit of the word's block is 0 and every other
cache entry is as before; `tda` of `c` is `a + 1`, wrapping; a core whose enabled match address is `a` has its interrupt pending;
nothing else changed, the register shadow left open. -/
def HostWrite (c : CoreId) (d : Half) (s t : State) : Prop :=
  let a := (s.core c).tda
  SameMemoryBut a s t
    ∧ t.readByte (2 * a.toNat) = d.extractLsb' 0 8 ∧ t.readByte (2 * a.toNat + 1) = d.extractLsb' 8 8
    ∧ (∀ i : Nat, t.cache.entry i = if i = a.toNat / 8 then none else s.cache.entry i)
    ∧ (t.core c).tda = BitVec.ofNat 20 (a.toNat + 1) ∧ (t.core (otherCore c)).tda = (s.core (otherCore c)).tda
    ∧ (∀ k : CoreId, (t.core k).irqPending = ((s.core k).irqPending || ((s.core k).irqEn && (s.core k).irqAddr == a)))
    ∧ (∀ k : CoreId, t.core k =
        { s.core k with shadow := (t.core k).shadow, irqPending := (t.core k).irqPending, tda := (t.core k).tda })

/-! ## What a tick leaves alone -/

/-- A slide but its current value: what its register wrote. -/
def Slide.mode (x : Slide) : Slide := { x with value := 0#16 }

/-- The part of a voice no tick changes: start address, pitch, the eight envelope parameters and `releasing`, the modes of both
volume slides. The fields a tick may change are blanked. -/
def Voice.settings (vc : Voice) : Voice :=
  { vc with
    loopStartAddr := 0#20, nextAddr := 0#20, samplePosFrac := 0#32, hist := {}, prev1 := 0#16, prev2 := 0#16
    blk := zeroBlock, blkPos := 28, loopFlags := 0#3, adsr := { vc.adsr with value := 0#32, phase := .off }
    volL := vc.volL.mode, volR := vc.volR.mode, lastOutput := 0#32 }

/-- The part of a core no tick changes: the register shadow, masks, gates, enables, addresses, the reverb configuration, the modes
of the six slides. The fields a tick may change are blanked. -/
def Core.settings (k : Core) : Core :=
  { k with
    voices := Vector.replicate 24 {}, irqPending := false, endx := 0#24, noise := 0#24, outPos := 0
    mvolL := k.mvolL.mode, mvolR := k.mvolR.mode, evolL := k.evolL.mode, evolR := k.evolR.mode
    ivolL := k.ivolL.mode, ivolR := k.ivolR.mode, revCursor := 0#20, revLast := {}, revHeld := {} }

/-- No flag of core `k` is cleared in `k'`: ENDX bits and the pending interrupt. -/
def FlagsOnlySet (k k' : Core) : Prop :=
  (∀ v, maskBit k.endx v = true → maskBit k'.endx v = true) ∧ (k.irqPending = true → k'.irqPending = true)

/-- Word `n` of sample RAM is in core `k`'s reverb region (10_state.md R37). -/
def InReverbRegion (k : Core) (n : Nat) : Prop := min k.esa.toNat k.eea.toNat ≤ n ∧ n ≤ max k.esa.toNat k.eea.toNat

/-! ## Command words -/

/-- The bits of a command word that say which command it is and with which operands: all but the ignored ones of
30_encoding.md R98 b (bits 27..0 of `NOP`, `TICK`, `RESET`; `data` of `RREG`). -/
def usedBits : Instr → CmdWord
  | .nop => 0xF0000000#32
  | .tick => 0xF0000000#32
  | .reset => 0xF0000000#32
  | .rreg _ _ => 0xFFFF0000#32
  | _ => 0xFFFFFFFF#32

/-- The reserved register indices in numbers (10_state.md R53). -/
def ReservedNumber (reg : Nat) : Prop :=
  (∃ v < 24, reg = v * 16 + 14 ∨ reg = v * 16 + 15) ∨ (0x1A6 ≤ reg ∧ reg ≤ 0x1BF) ∨ (0x1FA ≤ reg ∧ reg ≤ 0x1FF)

/-- The register numbers whose shadow entry no command writes: the reserved ones (10_state.md R53) and the read-only ones, `ENVX`,
`VOLXL`, `VOLXR` of each voice, `STAT`, `MVOLXL`, `MVOLXR` (R23, R42, R47). -/
def neverShadowed (reg : BitVec 9) : Bool :=
  let n := reg.toNat
  if n < 0x180 then decide (n % 16 ∈ [5, 12, 13, 14, 15])
  else decide (n ∈ [0x197, 0x1A0, 0x1A1]) || decide (0x1A6 ≤ n ∧ n ≤ 0x1BF) || decide (0x1FA ≤ n)

/-! ## The `WREG` of a register number (10_state.md R42, R47, R51, R52) -/

/-- The `WREG` of voice register k = 0..13 (R42). -/
def voiceWregs (c : CoreId) (v : VoiceId) (d : Half) : Vector Instr 14 :=
  #v[.wregVVoll c v d, .wregVVolr c v d, .wregVPitch c v d, .wregVAdsr1 c v d, .wregVAdsr2 c v d, .wregVEnvx c v d,
    .wregVSsaHi c v d, .wregVSsaLo c v d, .wregVLsaHi c v d, .wregVLsaLo c v d, .wregVNaxHi c v d, .wregVNaxLo c v d,
    .wregVVolxl c v d, .wregVVolxr c v d]

/-- The `WREG` of core global 0x180 + k, k = 0..37 (R47). -/
def globalWregs (c : CoreId) (d : Half) : Vector Instr 38 :=
  #v[.wregPmonLo c d, .wregPmonHi c d, .wregNonLo c d, .wregNonHi c d, .wregVmixlLo c d, .wregVmixlHi c d, .wregVmixrLo c d,
    .wregVmixrHi c d, .wregVmixelLo c d, .wregVmixelHi c d, .wregVmixerLo c d, .wregVmixerHi c d, .wregMmix c d, .wregAttr c d,
    .wregIrqaHi c d, .wregIrqaLo c d, .wregKonLo c d, .wregKonHi c d, .wregKoffLo c d, .wregKoffHi c d, .wregTsaHi c d,
    .wregTsaLo c d, .wregData c d, .wregStat c d, .wregEndxLo c d, .wregEndxHi c d, .wregMvoll c d, .wregMvolr c d,
    .wregEvoll c d, .wregEvolr c d, .wregIvoll c d, .wregIvolr c d, .wregMvolxl c d, .wregMvolxr c d, .wregEsaHi c d,
    .wregEsaLo c d, .wregEeaHi c d, .wregEeaLo c d]

/-- The `WREG` of reverb offset half 0x1C0 + k, k = 0..47 (R51): the high half of a name, then its low half. -/
def offsetWregs (c : CoreId) (d : Half) : Vector Instr 48 :=
  #v[.wregIirSrcA0Hi c d, .wregIirSrcA0Lo c d, .wregIirSrcA1Hi c d, .wregIirSrcA1Lo c d, .wregIirSrcB0Hi c d,
    .wregIirSrcB0Lo c d, .wregIirSrcB1Hi c d, .wregIirSrcB1Lo c d, .wregIirDestA0Hi c d, .wregIirDestA0Lo c d,
    .wregIirDestA1Hi c d, .wregIirDestA1Lo c d, .wregIirDestB0Hi c d, .wregIirDestB0Lo c d, .wregIirDestB1Hi c d,
    .wregIirDestB1Lo c d, .wregAccSrcA0Hi c d, .wregAccSrcA0Lo c d, .wregAccSrcA1Hi c d, .wregAccSrcA1Lo c d,
    .wregAccSrcB0Hi c d, .wregAccSrcB0Lo c d, .wregAccSrcB1Hi c d, .wregAccSrcB1Lo c d, .wregAccSrcC0Hi c d,
    .wregAccSrcC0Lo c d, .wregAccSrcC1Hi c d, .wregAccSrcC1Lo c d, .wregAccSrcD0Hi c d, .wregAccSrcD0Lo c d,
    .wregAccSrcD1Hi c d, .wregAccSrcD1Lo c d, .wregFbSrcA0Hi c d, .wregFbSrcA0Lo c d, .wregFbSrcA1Hi c d, .wregFbSrcA1Lo c d,
    .wregFbSrcB0Hi c d, .wregFbSrcB0Lo c d, .wregFbSrcB1Hi c d, .wregFbSrcB1Lo c d, .wregMixDestA0Hi c d, .wregMixDestA0Lo c d,
    .wregMixDestA1Hi c d, .wregMixDestA1Lo c d, .wregMixDestB0Hi c d, .wregMixDestB0Lo c d, .wregMixDestB1Hi c d,
    .wregMixDestB1Lo c d]

/-- The `WREG` of reverb coefficient 0x1F0 + k, k = 0..9 (R52). -/
def coefWregs (c : CoreId) (d : Half) : Vector Instr 10 :=
  #v[.wregIirAlpha c d, .wregIirCoef c d, .wregInCoefL c d, .wregInCoefR c d, .wregAccCoefA c d, .wregAccCoefB c d,
    .wregAccCoefC c d, .wregAccCoefD c d, .wregFbAlpha c d, .wregFbX c d]

/-! ## What a register reads as (45_commands.md R283) -/

/-- The register numbers whose read answers live state and not the shadow (45_commands.md R283, 10_state.md R42, R47). -/
def LiveNumber (reg : Nat) : Prop :=
  (∃ v : VoiceId, reg ∈ [5, 8, 9, 10, 11, 12, 13].map (v.val * 16 + ·)) ∨ reg ∈ [0x197, 0x198, 0x199, 0x1A0, 0x1A1]

/-- `x` is what a read of register number `reg` of core `c` answers, by the table of R283 with the numbers of 10_state.md R42 and
R47: `ENVX`, `LSA`, `NAX`, `VOLXL`, `VOLXR` of each voice; `STAT`, `ENDX`, `MVOLXL`, `MVOLXR`; for every other the shadow. -/
def ReadsAs (s : State) (c : CoreId) (reg : BitVec 9) (x : Half) : Prop :=
  (∀ v : VoiceId, let vc := s.voice c v
    (reg.toNat = v.val * 16 + 5 → x.toNat = vc.adsr.value.toNat / 65536 % 32768)
    ∧ (reg.toNat = v.val * 16 + 8 → x.toNat = vc.loopStartAddr.toNat / 65536)
    ∧ (reg.toNat = v.val * 16 + 9 → x.toNat = vc.loopStartAddr.toNat % 65536)
    ∧ (reg.toNat = v.val * 16 + 10 → x.toNat = vc.nextAddr.toNat / 65536)
    ∧ (reg.toNat = v.val * 16 + 11 → x.toNat = vc.nextAddr.toNat % 65536)
    ∧ (reg.toNat = v.val * 16 + 12 → x.toInt = vc.volL.value.toInt)
    ∧ (reg.toNat = v.val * 16 + 13 → x.toInt = vc.volR.value.toInt))
  ∧ (reg.toNat = 0x197 → x.toNat = (s.core c).irqPending.toNat + 2 * s.cmdErr.toNat + 16 * s.errCode.toNat)
  ∧ (reg.toNat = 0x198 → x.toNat = (s.core c).endx.toNat % 65536)
  ∧ (reg.toNat = 0x199 → x.toNat = (s.core c).endx.toNat / 65536)
  ∧ (reg.toNat = 0x1A0 → x.toInt = (s.core c).mvolL.value.toInt)
  ∧ (reg.toNat = 0x1A1 → x.toInt = (s.core c).mvolR.value.toInt)
  ∧ (¬ LiveNumber reg.toNat → x = s.shadowAt c reg)

/-! ## Runs of payload words -/

/-- The host memory writes of a list of words through core `c`, in order (45_commands.md R281). -/
def hostWrites (cfg : Config) (c : CoreId) (ds : List Half) (s : State) : State :=
  ds.foldl (fun t d => t.hostMemWrite cfg c d) s

/-- A run of the machine over words with the same sample inputs, all on the port (Host.Core.run is by step count). -/
def wordsOnPort (inputs : SampleInputs) (ws : List CmdWord) (s : State) : State :=
  { s with io := { s.io with pending := ws.map fun w => .word w inputs } }

/-! ## Parts of a tick, in integers -/

/-- A slide as a reset leaves it (10_state.md R54). -/
def Slide.AtReset (x : Slide) : Prop :=
  x.value = 0#16 ∧ x.fixed = true ∧ x.exp = false ∧ x.dec = false ∧ x.neg = false ∧ x.increment = 0#7

/-- The nearest integer in i16 range. -/
def clip (x : Int) : Int := min (max x (-32768)) 32767

/-- From `u` to `t` voice `v` of core `c` became `vc`, its ENDX bit was set if `ended`, and nothing else changed: no other voice,
flag or register, no shadow, no byte of memory, no cache entry. -/
def VoiceBecomes (c : CoreId) (v : VoiceId) (vc : Voice) (ended : Bool) (u t : State) : Prop :=
  t.voice c v = vc ∧ (∀ d w, ¬(d = c ∧ w = v) → t.voice d w = u.voice d w)
    ∧ (∀ d w, maskBit (t.core d).endx w = (maskBit (u.core d).endx w || (ended && d == c && w == v)))
    ∧ (∀ d, (t.core d).shadow = (u.core d).shadow ∧ (t.core d).control = { (u.core d).control with endx := (t.core d).endx })
    ∧ t.mem = u.mem ∧ t.cache = u.cache ∧ SameGlobals u t

/-- A voice after it has taken sample `x` of its block and stands at sample `n`: the history shifts, the position loses one sample
(41_voice_pipeline.md R143, R144). -/
def Voice.took (x : Half) (n : Fin 29) (vc : Voice) : Voice :=
  { vc with
    hist := { h0 := vc.hist.h1, h1 := vc.hist.h2, h2 := vc.hist.h3, h3 := BitVec.ofInt 32 x.toInt }
    samplePosFrac := BitVec.ofNat 32 (vc.samplePosFrac.toNat - 4096), blkPos := n }

/-- The pull loop of 41_voice_pipeline.md R143 and R144 takes voice `v` of core `c` from the first state to the second; the Bool is
whether the voice is still live. -/
inductive PullRun (cfg : Config) (c : CoreId) (v : VoiceId) : State → State → Bool → Prop
  /-- The position is below one sample: the loop ends. -/
  | done {s : State} : (s.voice c v).samplePosFrac.toNat < 4096 → PullRun cfg c v s s true
  /-- The next sample of the latched block is taken. -/
  | latched {s t : State} {live : Bool} (h : (s.voice c v).blkPos.val < 28) : 4096 ≤ (s.voice c v).samplePosFrac.toNat →
      PullRun cfg c v
        (s.modVoice c v (Voice.took (s.voice c v).blk[(s.voice c v).blkPos.val] ⟨(s.voice c v).blkPos.val + 1, by omega⟩)) t live →
      PullRun cfg c v s t live
  /-- The block is used up and its flags let the voice go on: the next block is latched and its first sample taken. -/
  | fetched {s t : State} {live : Bool} : (s.voice c v).blkPos.val = 28 → 4096 ≤ (s.voice c v).samplePosFrac.toNat →
      ¬((s.voice c v).loopFlags.getLsbD 0 = true ∧ (s.voice c v).loopFlags.getLsbD 1 = false) →
      PullRun cfg c v (((s.endOfBlock c v).fetchBlock cfg c v).modVoice c v
        (Voice.took (((s.endOfBlock c v).fetchBlock cfg c v).voice c v).blk[0] 1)) t live →
      PullRun cfg c v s t live
  /-- The block is used up and was the last: the voice is stopped, its position keeps its low 12 bits. -/
  | stopped {s : State} : (s.voice c v).blkPos.val = 28 → 4096 ≤ (s.voice c v).samplePosFrac.toNat →
      (s.voice c v).loopFlags.getLsbD 0 = true → (s.voice c v).loopFlags.getLsbD 1 = false →
      PullRun cfg c v s ((s.endOfBlock c v).modVoice c v fun vc =>
        { vc with samplePosFrac := BitVec.ofNat 32 (vc.samplePosFrac.toNat % 4096) }) false

/-- Steps 1 to 3 of R140 for a sounding voice: from `s` they reach `u` with the sample `x`, none where the voice was stopped. A
noise voice takes the generator's output and changes nothing (R158); a wave voice adds its pitch to its position, runs the pull loop
and interpolates (R141, R143, R154). -/
def VoiceSampled (cfg : Config) (c : CoreId) (v : VoiceId) (s u : State) (x : Option Int) : Prop :=
  if maskBit (s.core c).non v then u = s ∧ x = some (cfg.noiseOut (s.core c).noise).toInt
  else ∃ live : Bool,
    PullRun cfg c v (s.modVoice c v fun vc =>
      { vc with samplePosFrac := BitVec.ofNat 32 (vc.samplePosFrac.toNat + s.effectivePitch c v) }) u live
    ∧ x = if live then some ((u.voice c v).interpolate cfg) else none

/-! ## The network of an odd reverb tick, in integers (44_reverb.md) -/

/-- The address of a tap, `ahead` words further on (R225). -/
def tapWord (k : Core) (name : RevOff) (ahead : Nat) : Addr :=
  BitVec.ofNat 20 (min k.esa.toNat k.eea.toNat + (k.revCursor.toNat + (k.offset name).toNat + ahead)
    % (max k.esa.toNat k.eea.toNat - min k.esa.toNat k.eea.toNat + 1))

/-- The integer in sample RAM at a tap. -/
def tapValue (cfg : Config) (m : State) (k : Core) (name : RevOff) : Int := (m.memRead cfg (tapWord k name 0)).toInt

/-- `sat16(x)` is stored `ahead` words past a tap (R233); the block's validity bit is cleared with it (R227). -/
def tapStore (cfg : Config) (k : Core) (name : RevOff) (ahead : Nat) (x : Int) (m : State) : State :=
  m.memWrite cfg (tapWord k name ahead) (BitVec.ofInt 16 (clip x))

/-- One IIR stage from its two taps, its input and its input coefficient (R229). -/
def iirValue (k : Core) (src dst x : Int) (inCoef : RevCoef) : Int :=
  let v := (src * (k.coefficient .iirCoef).toInt + x * (k.coefficient inCoef).toInt) / 65536
  dst + (v - dst) * (k.coefficient .iirAlpha).toInt / 65536

/-- `acc_raw` of a channel, its four taps in the order A, B, C, D (R230). -/
def accValue (cfg : Config) (m : State) (k : Core) (a b c d : RevOff) : Int :=
  tapValue cfg m k a * (k.coefficient .accCoefA).toInt + tapValue cfg m k b * (k.coefficient .accCoefB).toInt
    + tapValue cfg m k c * (k.coefficient .accCoefC).toInt + tapValue cfg m k d * (k.coefficient .accCoefD).toInt

/-- `fax`: FB_ALPHA - 32768 if it is not negative, else FB_ALPHA + 32768 (R232). -/
def flippedAlpha (k : Core) : Int :=
  let a := (k.coefficient .fbAlpha).toInt
  if 0 ≤ a then a - 32768 else a + 32768

/-- `mda` of a channel from its accumulator and its feedback tap (R231). -/
def mixAValue (k : Core) (acc fa : Int) : Int := (acc - fa * (k.coefficient .fbAlpha).toInt) / 65536

/-- `mdb` of a channel from its accumulator and its two feedback taps (R232). -/
def mixBValue (k : Core) (acc fa fb : Int) : Int :=
  ((k.coefficient .fbAlpha).toInt * (acc / 65536) - fa * flippedAlpha k - fb * (k.coefficient .fbX).toInt) / 65536

/-- Sample RAM and cache after the four IIR stores, all eight taps read first (R228, R229). -/
def afterIir (cfg : Config) (k : Core) (xl xr : Int) (m : State) : State :=
  let stage (src dst : RevOff) (x : Int) (c : RevCoef) : Int := iirValue k (tapValue cfg m k src) (tapValue cfg m k dst) x c
  tapStore cfg k .iirDestB1 1 (stage .iirSrcB1 .iirDestB1 xr .inCoefR)
    (tapStore cfg k .iirDestB0 1 (stage .iirSrcB0 .iirDestB0 xl .inCoefL)
      (tapStore cfg k .iirDestA1 1 (stage .iirSrcA1 .iirDestA1 xr .inCoefR)
        (tapStore cfg k .iirDestA0 1 (stage .iirSrcA0 .iirDestA0 xl .inCoefL) m)))

/-- Sample RAM and cache after the four mix stores, accumulator and feedback taps read first (R230 to R233). -/
def afterMix (cfg : Config) (k : Core) (m : State) : State :=
  let acc0 := accValue cfg m k .accSrcA0 .accSrcB0 .accSrcC0 .accSrcD0
  let acc1 := accValue cfg m k .accSrcA1 .accSrcB1 .accSrcC1 .accSrcD1
  let fb (name : RevOff) : Int := tapValue cfg m k name
  tapStore cfg k .mixDestB1 0 (mixBValue k acc1 (fb .fbSrcA1) (fb .fbSrcB1))
    (tapStore cfg k .mixDestB0 0 (mixBValue k acc0 (fb .fbSrcA0) (fb .fbSrcB0))
      (tapStore cfg k .mixDestA1 0 (mixAValue k acc1 (fb .fbSrcA1))
        (tapStore cfg k .mixDestA0 0 (mixAValue k acc0 (fb .fbSrcA0)) m)))

/-! ## The invariants (10_state.md R38, R24; 43_volume_mixer.md R209) -/

/-- An i32 that is in i16 range. -/
def InI16 (x : BitVec 32) : Prop := -32768 ≤ x.toInt ∧ x.toInt ≤ 32767

/-- R38 a, b, d and the range of `interp_history` (10_state.md R28). -/
structure Voice.Ok (vc : Voice) : Prop where
  value_nonneg : 0 ≤ vc.adsr.value.toInt
  off_silent : vc.adsr.phase = .off → vc.adsr.value = 0#32 ∧ vc.lastOutput = 0#32
  pos_lt : vc.samplePosFrac.toNat < 4096
  hist : InI16 vc.hist.h0 ∧ InI16 vc.hist.h1 ∧ InI16 vc.hist.h2 ∧ InI16 vc.hist.h3

/-- The voices are as `Voice.Ok` says, the ring position is in range (R33), and the shadow of a register that cannot be written
is 0 (R23). -/
structure Core.Ok (cfg : Config) (k : Core) : Prop where
  voices : ∀ v, (k.voice v).Ok
  outPos_lt : k.outPos < cfg.outRingLen
  shadow : ∀ r : BitVec 9, neverShadowed r = true → k.shadow[r.toNat] = 0#16

/-- R24 and R38 c: the listed indices rise, are block indices at or above `DYN_LINE`, and every listed block is what a decode of
the current memory gives for some history. -/
structure CacheOk (cfg : Config) (m : Memory) (k : Cache) : Prop where
  rising : KeysRising k
  range : ∀ e ∈ k, e.1 < 0x20000 ∧ cfg.dynLine ≤ e.1 * 8
  coherent : ∀ e ∈ k, ∃ p1 p2 : Half, e.2 = decodeBlock cfg m (BitVec.ofNat 20 (e.1 * 8)) p1 p2

/-- Memory is in its canonical form, the cache agrees with it, both cores are as `Core.Ok` says. -/
structure State.Inv (cfg : Config) (s : State) : Prop where
  mem : Memory.wf cfg s.mem
  cache : CacheOk cfg s.mem s.cache
  cores : ∀ c, (s.core c).Ok cfg

end Sys2Proof.Machine
end

