-- ==== Sys2Proof/Certificates/Slice0/Obligations.lean ====
section
/-! DEFINITION. The statements about the machine, for the provers. Each docstring names the rules of the spec it formalises; the
vocabulary is Safety.lean. `s` is the state before, `t` after; hypotheses are on the state and the operands alone. -/

open Sys2Proof Sys2Proof.Machine

/-! ## Encoding -/

/-- Decoding the encoding of a well-formed instruction gives it back, every operand at every value (R92, R93, R95, R96). -/
def Obligations.DecodeOfEncode : Prop := ∀ i : Instr, i.wellFormed = true → decode (encode i) = .ok i

/-- A legal word is the encoding of the instruction it decodes to in all bits but the ignored ones, and that instruction is well
formed (R92, R98, R102): no word has a second meaning and no used bit is dropped. -/
def Obligations.DecodedWordIsItsEncoding : Prop :=
  ∀ (w : CmdWord) (i : Instr), decode w = .ok i → i.wellFormed = true ∧ encode i = w &&& usedBits i

/-- The decode procedure in its order, on the fields as numbers: which words are which command with which operands, which are
illegal, and the codes 1, 2, 3 of the three errors (R95, R53, the table of R300). A `WREG` of register number v*16 + k, 0x180 + k,
0x1C0 + k, 0x1F0 + k is the instruction of that register in the tables of R42, R47, R51, R52, with the word's core and data. -/
def Obligations.DecodeProcedure : Prop :=
  (DecodeError.reservedOpcode.code = 1#2 ∧ DecodeError.reservedBits.code = 2#2 ∧ DecodeError.reservedRegister.code = 3#2)
  ∧ ∀ w : CmdWord,
    let op := w.toNat / 2 ^ 28
    let z := w.toNat / 2 ^ 26 % 4
    let c : CoreId := if w.toNat / 2 ^ 25 % 2 = 0 then .c0 else .c1
    let reg := w.toNat / 2 ^ 16 % 512
    let d : Half := BitVec.ofNat 16 w.toNat
    (op = 0 → decode w = .ok .nop) ∧ (op = 4 → decode w = .ok .tick) ∧ (op = 5 → decode w = .ok .reset)
      ∧ (6 ≤ op → decode w = .error .reservedOpcode)
      ∧ (1 ≤ op → op ≤ 3 → z ≠ 0 → decode w = .error .reservedBits)
      ∧ (op = 3 → z = 0 → reg ≠ 0 → decode w = .error .reservedBits)
      ∧ (op = 3 → z = 0 → reg = 0 → decode w = .ok (.dmaw c d))
      ∧ (op = 1 ∨ op = 2 → z = 0 → ReservedNumber reg → decode w = .error .reservedRegister)
      ∧ (op = 2 → z = 0 → ¬ ReservedNumber reg → decode w = .ok (.rreg c (BitVec.ofNat 9 reg)))
      ∧ (op = 1 → z = 0 →
        (∀ (v : VoiceId) (k : Fin 14), reg = v.val * 16 + k.val → decode w = .ok (voiceWregs c v d)[k.val])
        ∧ (∀ k : Fin 38, reg = 0x180 + k.val → decode w = .ok (globalWregs c d)[k.val])
        ∧ (∀ k : Fin 48, reg = 0x1C0 + k.val → decode w = .ok (offsetWregs c d)[k.val])
        ∧ (∀ k : Fin 10, reg = 0x1F0 + k.val → decode w = .ok (coefWregs c d)[k.val]))

/-- Words the spec writes out decode to what it says they are (examples of R250, R252, R254, R255, R257, R259, R269, R270, R271,
R278, R280 to R284, R290). -/
def Obligations.SpecExampleWordsDecode : Prop :=
  decode 0x00000000#32 = .ok .nop
    ∧ decode 0x50000000#32 = .ok .reset
    ∧ decode 0x40000000#32 = .ok .tick
    ∧ decode 0x10003FFF#32 = .ok (.wregVVoll .c0 0 0x3FFF#16)
    ∧ decode 0x12212000#32 = .ok (.wregVVolr .c1 2 0x2000#16)
    ∧ decode 0x10021000#32 = .ok (.wregVPitch .c0 0 0x1000#16)
    ∧ decode 0x10045FDF#32 = .ok (.wregVAdsr2 .c0 0 0x5FDF#16)
    ∧ decode 0x118C0C00#32 = .ok (.wregMmix .c0 0x0C00#16)
    ∧ decode 0x138D0003#32 = .ok (.wregAttr .c1 3#16)
    ∧ decode 0x11900001#32 = .ok (.wregKonLo .c0 1#16)
    ∧ decode 0x119A3FFF#32 = .ok (.wregMvoll .c0 0x3FFF#16)
    ∧ decode 0x11E90002#32 = .ok (.wregMixDestA0Lo .c0 2#16)
    ∧ decode 0x11960100#32 = .ok (.wregData .c0 0x0100#16)
    ∧ decode 0x11F84000#32 = .ok (.wregFbAlpha .c0 0x4000#16)
    ∧ decode 0x20050000#32 = .ok (.rreg .c0 5#9)
    ∧ decode 0x30000002#32 = .ok (.dmaw .c0 2#16)

/-! ## The sequencer -/

/-- Outside a burst, a step takes the word off the port and runs the instruction it decodes to (R253). How the
port holds its words and levels is the model's choice (notes/assumptions/1.md, 3.md). -/
def Obligations.StepRunsDecodedCommand : Prop :=
  ∀ (s : State) (w : CmdWord) (inputs : SampleInputs) (rest : List PortEvent) (i : Instr),
    s.io.pending = .word w inputs :: rest → s.burstRemaining = 0#16 → decode w = .ok i →
      step s = exec i (s.accept rest inputs)

/-- Outside a burst, an illegal word sets the sticky error, records its code if it is the first since reset, and changes nothing
else (R253, R300). -/
def Obligations.StepFlagsIllegalWord : Prop :=
  ∀ (s : State) (w : CmdWord) (inputs : SampleInputs) (rest : List PortEvent) (e : DecodeError),
    s.io.pending = .word w inputs :: rest → s.burstRemaining = 0#16 → decode w = .error e →
      ∃ t, step s = .next t ∧ t.cmdErr = true ∧ t.errCode = (if s.errCode = 0#2 then e.code else s.errCode)
        ∧ SameMemory s t ∧ t.cache = s.cache ∧ SameCores s t ∧ t.tick = s.tick ∧ t.burstRemaining = s.burstRemaining
        ∧ t.burstCore = s.burstCore ∧ t.out = s.out ∧ t.rspData = s.rspData ∧ t.io.pushes = s.io.pushes

/-- Inside a burst a word is a payload word whatever its bits: one host memory write of its low half through the burst's core, one
word fewer expected, no register shadow written (R285, R94). The port's form is the model's choice (notes/assumptions/1.md). -/
def Obligations.StepTakesPayloadWord : Prop :=
  ∀ (s : State) (w : CmdWord) (inputs : SampleInputs) (rest : List PortEvent),
    s.io.pending = .word w inputs :: rest → s.burstRemaining ≠ 0#16 → Memory.wf config s.mem →
      ∃ t, step s = .next t ∧ HostWrite s.burstCore (BitVec.ofNat 16 w.toNat) s t
        ∧ t.burstRemaining.toNat = s.burstRemaining.toNat - 1 ∧ (∀ k, (t.core k).shadow = (s.core k).shadow)
        ∧ t.tick = s.tick ∧ t.cmdErr = s.cmdErr ∧ t.errCode = s.errCode ∧ t.burstCore = s.burstCore ∧ t.out = s.out
        ∧ t.rspData = s.rspData ∧ t.io.pushes = s.io.pushes

/-- A burst of N words is exactly N host memory writes in order: after N steps the burst is over, memory, cache and cores are those
of the N writes, and the running address has advanced by N modulo 2^20 (R285, R286). The port's form is the model's choice
(notes/assumptions/1.md). -/
def Obligations.BurstIsThatManyHostWrites : Prop :=
  ∀ (s : State) (ws : List CmdWord) (inputs : SampleInputs), ws.length = s.burstRemaining.toNat →
    ∃ t, Host.Core.run Sys2Proof.core ws.length (wordsOnPort inputs ws s) = .next t
      ∧ t.burstRemaining = 0#16
      ∧ t.mem = (hostWrites config s.burstCore (ws.map dataField) s).mem
      ∧ t.cache = (hostWrites config s.burstCore (ws.map dataField) s).cache
      ∧ SameCores (hostWrites config s.burstCore (ws.map dataField) s) t
      ∧ (t.core s.burstCore).tda = BitVec.ofNat 20 ((s.core s.burstCore).tda.toNat + ws.length)
      ∧ t.tick = s.tick ∧ t.out = s.out ∧ t.rspData = s.rspData ∧ t.cmdErr = s.cmdErr ∧ t.errCode = s.errCode

/-- The `rst` port, also inside a burst: every field its reset value, memory `mem_init`; what the port has pushed and what it still
presents is not state of the block and stays (R330 a; the ports: notes/assumptions/4.md). -/
def Obligations.StepResetPort : Prop :=
  ∀ (s : State) (rest : List PortEvent), s.io.pending = .rst :: rest →
    ∃ t, step s = .next t ∧ t = { State.reset with io := t.io } ∧ t.io.pending = rest ∧ t.io.pushes = s.io.pushes
      ∧ ∀ a : Addr, t.memRead config a = config.memInit a

/-- No state stops the machine: every step answers a next state (R253, R309). -/
def Obligations.EveryStepAnswersNext : Prop := ∀ s : State, ∃ t, step s = .next t

/-! ## `WREG` of a voice register -/

/-- `VOLL`, `VOLR`: the slide is written as R256 says; the frame is `VoiceWrite` (R255, R256). -/
def Obligations.VoiceVolumeWrite : Prop :=
  ∀ (c : CoreId) (v : VoiceId) (d : Half) (s : State),
    (∃ x t, SlideWritten d (s.voice c v).volL x ∧ exec (.wregVVoll c v d) s = .next t
      ∧ VoiceWrite c v 0 d { s.voice c v with volL := x } s t)
    ∧ (∃ x t, SlideWritten d (s.voice c v).volR x ∧ exec (.wregVVolr c v d) s = .next t
      ∧ VoiceWrite c v 1 d { s.voice c v with volR := x } s t)

/-- `PITCH` (R257). -/
def Obligations.VoicePitchWrite : Prop :=
  ∀ (c : CoreId) (v : VoiceId) (d : Half) (s : State),
    ∃ t, exec (.wregVPitch c v d) s = .next t ∧ VoiceWrite c v 2 d { s.voice c v with pitch := d } s t

/-- `ADSR1`, `ADSR2`: the eight parameters; phase, level and `releasing` are not touched (R258, R259). -/
def Obligations.VoiceEnvelopeWrite : Prop :=
  ∀ (c : CoreId) (v : VoiceId) (d : Half) (s : State),
    (∃ t, exec (.wregVAdsr1 c v d) s = .next t
      ∧ VoiceWrite c v 3 d { s.voice c v with adsr := { (s.voice c v).adsr with
          attackMode := d.getLsbD 15, attackRate := BitVec.ofNat 7 (d.toNat / 256), decayRate := BitVec.ofNat 4 (d.toNat / 16)
          sustainLevel := BitVec.ofNat 4 d.toNat } } s t)
    ∧ (∃ t, exec (.wregVAdsr2 c v d) s = .next t
      ∧ VoiceWrite c v 4 d { s.voice c v with adsr := { (s.voice c v).adsr with
          sustainMode := BitVec.ofNat 3 (d.toNat / 8192), sustainRate := BitVec.ofNat 7 (d.toNat / 64)
          releaseMode := d.getLsbD 5, releaseRate := BitVec.ofNat 5 d.toNat } } s t)

/-- `SSA`, `LSA`, `NAX`, both halves of each: the half's bits of the address are replaced (R260, R261, R262, R45). -/
def Obligations.VoiceAddressWrite : Prop :=
  ∀ (c : CoreId) (v : VoiceId) (d : Half) (s : State),
    (∃ t, exec (.wregVSsaHi c v d) s = .next t
      ∧ VoiceWrite c v 6 d { s.voice c v with startAddr := addrWithHi (s.voice c v).startAddr d } s t)
    ∧ (∃ t, exec (.wregVSsaLo c v d) s = .next t
      ∧ VoiceWrite c v 7 d { s.voice c v with startAddr := addrWithLo (s.voice c v).startAddr d } s t)
    ∧ (∃ t, exec (.wregVLsaHi c v d) s = .next t
      ∧ VoiceWrite c v 8 d { s.voice c v with loopStartAddr := addrWithHi (s.voice c v).loopStartAddr d } s t)
    ∧ (∃ t, exec (.wregVLsaLo c v d) s = .next t
      ∧ VoiceWrite c v 9 d { s.voice c v with loopStartAddr := addrWithLo (s.voice c v).loopStartAddr d } s t)
    ∧ (∃ t, exec (.wregVNaxHi c v d) s = .next t
      ∧ VoiceWrite c v 10 d { s.voice c v with nextAddr := addrWithHi (s.voice c v).nextAddr d } s t)
    ∧ (∃ t, exec (.wregVNaxLo c v d) s = .next t
      ∧ VoiceWrite c v 11 d { s.voice c v with nextAddr := addrWithLo (s.voice c v).nextAddr d } s t)

/-- A write to one of the six read-only registers changes no state, the shadow included, and is not flagged (R254). -/
def Obligations.ReadOnlyWriteIsIgnored : Prop :=
  ∀ (c : CoreId) (v : VoiceId) (d : Half) (s : State),
    exec (.wregVEnvx c v d) s = .next s ∧ exec (.wregVVolxl c v d) s = .next s ∧ exec (.wregVVolxr c v d) s = .next s
      ∧ exec (.wregStat c d) s = .next s ∧ exec (.wregMvolxl c d) s = .next s ∧ exec (.wregMvolxr c d) s = .next s

/-! ## `WREG` of a core register -/

/-- The twelve mask halves (R263 to R268). -/
def Obligations.MaskWrite : Prop :=
  ∀ (c : CoreId) (d : Half) (s : State),
    (∃ t, exec (.wregPmonLo c d) s = .next t ∧ ControlWrite c 0x180 d { s.core c with pmon := maskWithLo (s.core c).pmon d } s t)
    ∧ (∃ t, exec (.wregPmonHi c d) s = .next t
      ∧ ControlWrite c 0x181 d { s.core c with pmon := maskWithHi (s.core c).pmon d } s t)
    ∧ (∃ t, exec (.wregNonLo c d) s = .next t ∧ ControlWrite c 0x182 d { s.core c with non := maskWithLo (s.core c).non d } s t)
    ∧ (∃ t, exec (.wregNonHi c d) s = .next t ∧ ControlWrite c 0x183 d { s.core c with non := maskWithHi (s.core c).non d } s t)
    ∧ (∃ t, exec (.wregVmixlLo c d) s = .next t
      ∧ ControlWrite c 0x184 d { s.core c with vmixDl := maskWithLo (s.core c).vmixDl d } s t)
    ∧ (∃ t, exec (.wregVmixlHi c d) s = .next t
      ∧ ControlWrite c 0x185 d { s.core c with vmixDl := maskWithHi (s.core c).vmixDl d } s t)
    ∧ (∃ t, exec (.wregVmixrLo c d) s = .next t
      ∧ ControlWrite c 0x186 d { s.core c with vmixDr := maskWithLo (s.core c).vmixDr d } s t)
    ∧ (∃ t, exec (.wregVmixrHi c d) s = .next t
      ∧ ControlWrite c 0x187 d { s.core c with vmixDr := maskWithHi (s.core c).vmixDr d } s t)
    ∧ (∃ t, exec (.wregVmixelLo c d) s = .next t
      ∧ ControlWrite c 0x188 d { s.core c with vmixWl := maskWithLo (s.core c).vmixWl d } s t)
    ∧ (∃ t, exec (.wregVmixelHi c d) s = .next t
      ∧ ControlWrite c 0x189 d { s.core c with vmixWl := maskWithHi (s.core c).vmixWl d } s t)
    ∧ (∃ t, exec (.wregVmixerLo c d) s = .next t
      ∧ ControlWrite c 0x18A d { s.core c with vmixWr := maskWithLo (s.core c).vmixWr d } s t)
    ∧ (∃ t, exec (.wregVmixerHi c d) s = .next t
      ∧ ControlWrite c 0x18B d { s.core c with vmixWr := maskWithHi (s.core c).vmixWr d } s t)

/-- `MMIX`: the twelve gates. `ATTR`: effects enable, interrupt enable; a 0 in bit 1 also clears the pending interrupt, a 1 leaves
it (R269, R270, R49). -/
def Obligations.MixGateAndAttrWrite : Prop :=
  ∀ (c : CoreId) (d : Half) (s : State),
    (∃ t, exec (.wregMmix c d) s = .next t ∧ ControlWrite c 0x18C d { s.core c with mmix := BitVec.ofNat 12 d.toNat } s t)
    ∧ (∃ t, exec (.wregAttr c d) s = .next t
      ∧ ControlWrite c 0x18D d { s.core c with
          fxEn := d.getLsbD 0, irqEn := d.getLsbD 1
          irqPending := if d.getLsbD 1 then (s.core c).irqPending else false } s t)

/-- `IRQA`, both halves: no match check is made. `TSA`, both halves: either reloads the running address from the new `tsa`
(R275, R276). -/
def Obligations.MatchAndTransferAddressWrite : Prop :=
  ∀ (c : CoreId) (d : Half) (s : State),
    (∃ t, exec (.wregIrqaHi c d) s = .next t
      ∧ ControlWrite c 0x18E d { s.core c with irqAddr := addrWithHi (s.core c).irqAddr d } s t)
    ∧ (∃ t, exec (.wregIrqaLo c d) s = .next t
      ∧ ControlWrite c 0x18F d { s.core c with irqAddr := addrWithLo (s.core c).irqAddr d } s t)
    ∧ (∃ t, exec (.wregTsaHi c d) s = .next t
      ∧ ControlWrite c 0x194 d { s.core c with tsa := addrWithHi (s.core c).tsa d, tda := addrWithHi (s.core c).tsa d } s t)
    ∧ (∃ t, exec (.wregTsaLo c d) s = .next t
      ∧ ControlWrite c 0x195 d { s.core c with tsa := addrWithLo (s.core c).tsa d, tda := addrWithLo (s.core c).tsa d } s t)

/-- `ESA`, `EEA`, both halves; the reverb cursor keeps its value (R279). -/
def Obligations.EffectsRegionWrite : Prop :=
  ∀ (c : CoreId) (d : Half) (s : State),
    (∃ t, exec (.wregEsaHi c d) s = .next t ∧ ControlWrite c 0x1A2 d { s.core c with esa := addrWithHi (s.core c).esa d } s t)
    ∧ (∃ t, exec (.wregEsaLo c d) s = .next t ∧ ControlWrite c 0x1A3 d { s.core c with esa := addrWithLo (s.core c).esa d } s t)
    ∧ (∃ t, exec (.wregEeaHi c d) s = .next t ∧ ControlWrite c 0x1A4 d { s.core c with eea := addrWithHi (s.core c).eea d } s t)
    ∧ (∃ t, exec (.wregEeaLo c d) s = .next t ∧ ControlWrite c 0x1A5 d { s.core c with eea := addrWithLo (s.core c).eea d } s t)

/-- `KON_LO`, `KON_HI`: every voice whose bit is 1 is keyed on and loses its ENDX bit, every other voice and ENDX bit stays
(R271, R272; key-on itself is R152). -/
def Obligations.KeyOnWrite : Prop :=
  ∀ (c : CoreId) (d : Half) (s : State),
    (∃ t, exec (.wregKonLo c d) s = .next t ∧ KeyWrite c 0x190 d (selectedLo d) (KeyedOn config) s t
      ∧ ∀ v, maskBit (t.core c).endx v = (maskBit (s.core c).endx v && !selectedLo d v))
    ∧ (∃ t, exec (.wregKonHi c d) s = .next t ∧ KeyWrite c 0x191 d (selectedHi d) (KeyedOn config) s t
      ∧ ∀ v, maskBit (t.core c).endx v = (maskBit (s.core c).endx v && !selectedHi d v))

/-- `KOFF_LO`, `KOFF_HI`: every sounding voice whose bit is 1 is marked releasing, an Off voice stays, no ENDX bit changes
(R273, R274, R153). -/
def Obligations.KeyOffWrite : Prop :=
  ∀ (c : CoreId) (d : Half) (s : State),
    (∃ t, exec (.wregKoffLo c d) s = .next t ∧ KeyWrite c 0x192 d (selectedLo d) KeyedOff s t
      ∧ (t.core c).endx = (s.core c).endx)
    ∧ (∃ t, exec (.wregKoffHi c d) s = .next t ∧ KeyWrite c 0x193 d (selectedHi d) KeyedOff s t
      ∧ (t.core c).endx = (s.core c).endx)

/-- `DATA`: one host memory write; the shadow takes the word; no global changes (R281). Memory is in its canonical form, which
every step keeps (`EveryStepKeepsInvariant`). -/
def Obligations.DataWrite : Prop :=
  ∀ (c : CoreId) (d : Half) (s : State), Memory.wf config s.mem →
    ∃ t, exec (.wregData c d) s = .next t ∧ HostWrite c d s t ∧ ShadowTakes c 0x196 d s t
      ∧ (t.core (otherCore c)).shadow = (s.core (otherCore c)).shadow ∧ SameGlobals s t

/-- `ENDX_LO`, `ENDX_HI`: all 24 ENDX bits are cleared, whatever `d` and whichever half (R277). -/
def Obligations.EndxWrite : Prop :=
  ∀ (c : CoreId) (d : Half) (s : State),
    (∃ t, exec (.wregEndxLo c d) s = .next t ∧ ControlWrite c 0x198 d { s.core c with endx := 0#24 } s t)
    ∧ (∃ t, exec (.wregEndxHi c d) s = .next t ∧ ControlWrite c 0x199 d { s.core c with endx := 0#24 } s t)

/-- The six core volumes: the slide is written as R256 says (R278). -/
def Obligations.CoreVolumeWrite : Prop :=
  ∀ (c : CoreId) (d : Half) (s : State),
    (∃ x t, SlideWritten d (s.core c).mvolL x ∧ exec (.wregMvoll c d) s = .next t
      ∧ ControlWrite c 0x19A d { s.core c with mvolL := x } s t)
    ∧ (∃ x t, SlideWritten d (s.core c).mvolR x ∧ exec (.wregMvolr c d) s = .next t
      ∧ ControlWrite c 0x19B d { s.core c with mvolR := x } s t)
    ∧ (∃ x t, SlideWritten d (s.core c).evolL x ∧ exec (.wregEvoll c d) s = .next t
      ∧ ControlWrite c 0x19C d { s.core c with evolL := x } s t)
    ∧ (∃ x t, SlideWritten d (s.core c).evolR x ∧ exec (.wregEvolr c d) s = .next t
      ∧ ControlWrite c 0x19D d { s.core c with evolR := x } s t)
    ∧ (∃ x t, SlideWritten d (s.core c).ivolL x ∧ exec (.wregIvoll c d) s = .next t
      ∧ ControlWrite c 0x19E d { s.core c with ivolL := x } s t)
    ∧ (∃ x t, SlideWritten d (s.core c).ivolR x ∧ exec (.wregIvolr c d) s = .next t
      ∧ ControlWrite c 0x19F d { s.core c with ivolR := x } s t)

/-- The 48 halves of the 24 reverb offsets, `wregIirSrcA0Hi` to `wregMixDestB1Lo`: the half's bits of the named offset are
replaced, every other offset stays (R280). -/
def Obligations.ReverbOffsetWrite : Prop :=
  ∀ (k : RevOff) (c : CoreId) (d : Half) (s : State),
    (∃ t, exec (wregOffHiInstr k c d) s = .next t
      ∧ ControlWrite c (0x1C0 + 2 * (offIndex k).val) d { s.core c with off := (t.core c).off } s t
      ∧ (t.core c).offset k = addrWithHi ((s.core c).offset k) d ∧ ∀ j, j ≠ k → (t.core c).offset j = (s.core c).offset j)
    ∧ (∃ t, exec (wregOffLoInstr k c d) s = .next t
      ∧ ControlWrite c (0x1C1 + 2 * (offIndex k).val) d { s.core c with off := (t.core c).off } s t
      ∧ (t.core c).offset k = addrWithLo ((s.core c).offset k) d ∧ ∀ j, j ≠ k → (t.core c).offset j = (s.core c).offset j)

/-- The ten reverb coefficients, `wregIirAlpha` to `wregFbX`: the named one becomes `sext_16(d)`, every other stays (R282). -/
def Obligations.ReverbCoefficientWrite : Prop :=
  ∀ (k : RevCoef) (c : CoreId) (d : Half) (s : State),
    ∃ t, exec (wregCoefInstr k c d) s = .next t
      ∧ ControlWrite c (0x1F0 + (coefIndex k).val) d { s.core c with coef := (t.core c).coef } s t
      ∧ (t.core c).coefficient k = d ∧ ∀ j, j ≠ k → (t.core c).coefficient j = (s.core c).coefficient j

/-- A `WREG` changes its own core only: any voice register, and any core register but `DATA`, leaves memory, the cache, the other
core, the globals and the ports alone (R251, R344). -/
def Obligations.WregTouchesItsCoreOnly : Prop :=
  ∀ (c : CoreId) (d : Half) (s : State),
    (∀ (r : VoiceReg) (v : VoiceId), ∃ t, exec (wregVoiceInstr r c v d) s = .next t ∧ SameOutside c s t)
    ∧ (∀ r : CoreReg, r ≠ .data → ∃ t, exec (wregCoreInstr r c d) s = .next t ∧ SameOutside c s t)

/-! ## The other commands -/

/-- `NOP` changes nothing (R250). -/
def Obligations.NopChangesNothing : Prop := ∀ s : State, exec .nop s = .next s

/-- `RREG`: for a register, `rsp_data` becomes its value by the table of R283, by register number (`ReadsAs`), and nothing else
changes; for a reserved number, the error is flagged with code 3 and nothing else changes, `rsp_data` included (R283). -/
def Obligations.RregReads : Prop :=
  ∀ (c : CoreId) (reg : BitVec 9) (s : State),
    (¬ ReservedNumber reg.toNat →
      ∃ t, exec (.rreg c reg) s = .next t ∧ ReadsAs s c reg t.rspData ∧ t = { s with rspData := t.rspData })
    ∧ (ReservedNumber reg.toNat → ∃ t, exec (.rreg c reg) s = .next t
      ∧ t = { s with cmdErr := true, errCode := if s.errCode = 0#2 then 3#2 else s.errCode })

/-- The header word of a burst: N words are expected for core `c`; nothing else changes (R284). At N = 0 the clause
`burst_core = c` is the model's choice, from the pseudocode of R284 and against its corner case "N = 0 does nothing" (DEDUCED,
notes/assumptions/17.md). -/
def Obligations.DmawStartsBurst : Prop :=
  ∀ (c : CoreId) (n : Half) (s : State), ∃ t, exec (.dmaw c n) s = .next t
    ∧ t.burstRemaining.toNat = n.toNat ∧ t.burstCore = c ∧ SameMemory s t ∧ t.cache = s.cache ∧ SameCores s t ∧ t.tick = s.tick
    ∧ t.cmdErr = s.cmdErr ∧ t.errCode = s.errCode ∧ t.out = s.out ∧ t.rspData = s.rspData ∧ t.io = s.io

/-- The `RESET` command: every state field its reset value, memory unchanged; the ports are not state of the block (R252). -/
def Obligations.ResetCommandKeepsMemoryOnly : Prop :=
  ∀ s : State, ∃ t, exec .reset s = .next t ∧ SameMemory s t ∧ t = { State.reset with mem := s.mem, io := s.io }

/-- What reset leaves, every field of R54 (and R330, R331, R24): all voices Off, their blocks used up, their history, block, envelope
parameters, addresses and output 0; every register, mask, address, offset and coefficient 0; all slides at 0, fixed, every mode bit 0;
no error, no interrupt, no burst, tick 0, no valid cache entry, both noise generators at the seed, memory at `mem_init`. -/
def Obligations.ResetState : Prop :=
  (∀ c v, let vc := State.reset.voice c v
      vc.adsr.phase = .off ∧ vc.adsr.value = 0#32 ∧ vc.adsr.releasing = false ∧ vc.lastOutput = 0#32 ∧ vc.pitch = 0#16
      ∧ vc.startAddr = 0#20 ∧ vc.loopStartAddr = 0#20 ∧ vc.nextAddr = 0#20 ∧ vc.samplePosFrac = 0#32 ∧ vc.blkPos.val = 28
      ∧ vc.loopFlags = 0#3 ∧ vc.prev1 = 0#16 ∧ vc.prev2 = 0#16 ∧ vc.volL.AtReset ∧ vc.volR.AtReset
      ∧ vc.hist.h0 = 0#32 ∧ vc.hist.h1 = 0#32 ∧ vc.hist.h2 = 0#32 ∧ vc.hist.h3 = 0#32 ∧ (∀ i : Fin 28, vc.blk[i.val] = 0#16)
      ∧ vc.adsr.attackRate = 0#7 ∧ vc.adsr.attackMode = false ∧ vc.adsr.decayRate = 0#4 ∧ vc.adsr.sustainLevel = 0#4
      ∧ vc.adsr.sustainRate = 0#7 ∧ vc.adsr.sustainMode = 0#3 ∧ vc.adsr.releaseRate = 0#5 ∧ vc.adsr.releaseMode = false)
  ∧ (∀ c, let k := State.reset.core c
      (∀ r, State.reset.shadowAt c r = 0#16) ∧ k.pmon = 0#24 ∧ k.non = 0#24 ∧ k.vmixDl = 0#24 ∧ k.vmixDr = 0#24
      ∧ k.vmixWl = 0#24 ∧ k.vmixWr = 0#24 ∧ k.mmix = 0#12 ∧ k.fxEn = false ∧ k.irqEn = false ∧ k.irqAddr = 0#20
      ∧ k.irqPending = false ∧ k.endx = 0#24 ∧ k.tsa = 0#20 ∧ k.tda = 0#20 ∧ k.noise = config.noiseSeed ∧ k.outPos = 0
      ∧ k.mvolL.AtReset ∧ k.mvolR.AtReset ∧ k.evolL.AtReset ∧ k.evolR.AtReset ∧ k.ivolL.AtReset ∧ k.ivolR.AtReset
      ∧ k.esa = 0#20 ∧ k.eea = 0#20 ∧ (∀ n, k.offset n = 0#20) ∧ (∀ n, k.coefficient n = 0#16) ∧ k.revCursor = 0#20
      ∧ k.revLast.l = 0#16 ∧ k.revLast.r = 0#16 ∧ k.revHeld.l = 0#16 ∧ k.revHeld.r = 0#16)
  ∧ (∀ i, State.reset.cache.valid i = false) ∧ (∀ a, State.reset.memRead config a = config.memInit a)
  ∧ State.reset.tick = 0#32 ∧ State.reset.cmdErr = false ∧ State.reset.errCode = 0#2 ∧ State.reset.burstRemaining = 0#16
  ∧ State.reset.burstCore = .c0 ∧ State.reset.out.l = 0#16 ∧ State.reset.out.r = 0#16 ∧ State.reset.rspData = 0#16
  ∧ State.reset.irqPin = false ∧ State.reset.errPin = false

/-! ## `TICK` -/

/-- A tick completes from every state: the counter advances by one, both noise generators step once, before the mixes; exactly one
sample is pushed and stands on the output: what core 1's mix answers for core 0's answer as its external input and the sound-data
input of core 1, core 0 mixed first on the external input and its own sound-data input, every voice, core, byte and cache entry
after the tick as the second mix leaves them; the errors, the burst state, `rsp_data` and the rest of the ports stay (R290, R91,
R291, R206, R99). That pushes are kept as a list is the model's choice (notes/assumptions/4.md). -/
def Obligations.TickAdvancesAndPushesOnce : Prop :=
  ∀ s : State, ∃ t, exec .tick s = .next t ∧ t.tick = s.tick + 1#32
    ∧ t.core0.noise = config.noiseStep s.core0.noise ∧ t.core1.noise = config.noiseStep s.core1.noise
    ∧ t.io.pushes = t.out :: s.io.pushes ∧ t.io.pending = s.io.pending ∧ t.io.inputs = s.io.inputs
    ∧ t.cmdErr = s.cmdErr ∧ t.errCode = s.errCode ∧ t.burstRemaining = s.burstRemaining ∧ t.burstCore = s.burstCore
    ∧ t.rspData = s.rspData
    ∧ (∀ c, (t.core c).outPos = ((s.core c).outPos + 1) % config.outRingLen)
    ∧ let x := s.io.inputs
      let u : State := { s with core0 := { s.core0 with noise := config.noiseStep s.core0.noise }
                                core1 := { s.core1 with noise := config.noiseStep s.core1.noise } }
      let m0 := u.mixCore config .c0 ⟨x.extL.toInt, x.extR.toInt⟩ ⟨x.snd0L.toInt, x.snd0R.toInt⟩
      let m1 := m0.1.mixCore config .c1 m0.2 ⟨x.snd1L.toInt, x.snd1R.toInt⟩
      t.out.l.toInt = m1.2.l ∧ t.out.r.toInt = m1.2.r ∧ SameCores m1.1 t ∧ t.mem = m1.1.mem ∧ t.cache = m1.1.cache

/-- A tick changes none of these settings: register shadows (R23: only a `WREG` writes them), masks, gates, enables, match, transfer
and effects addresses, reverb offsets and coefficients, start addresses, pitches, envelope parameters, slide modes. Not among them,
because a tick writes them: a voice's loop start and next address (`LSA`, `NAX`; R145, R146) and the value of a slide (R193). R26
names the writers of the flags, R140, R198, R220 and R290 what a tick writes. -/
def Obligations.TickKeepsSettings : Prop :=
  ∀ s : State, ∃ t, exec .tick s = .next t ∧ (∀ c, (t.core c).settings = (s.core c).settings)
    ∧ (∀ c v, (t.voice c v).settings = (s.voice c v).settings)

/-- A tick stores to sample RAM only on an odd tick, and then only inside the effects region of a core with effects on
(R60, R203, R223, R225, R236 a). -/
def Obligations.TickStoresOnlyInReverbRegions : Prop :=
  ∀ s : State, ∃ t, exec .tick s = .next t
    ∧ ∀ b : Nat, t.readByte b ≠ s.readByte b →
        s.tick.getLsbD 0 = true ∧ ∃ c, (s.core c).fxEn = true ∧ InReverbRegion (s.core c) (b / 2)

/-- A tick clears no flag: ENDX bits and pending interrupts are set only (R307, R305, R306). -/
def Obligations.TickOnlySetsFlags : Prop :=
  ∀ s : State, ∃ t, exec .tick s = .next t ∧ ∀ c, FlagsOnlySet (s.core c) (t.core c)

/-- With core 1's twelve gates closed and its effects off a tick pushes (0, 0), whatever the voices and the other core do, and
leaves them closed and off (R201, R203, R206); reset closes them and turns the effects off, so every tick pushes (0, 0) until the
host programs the block (R54). -/
def Obligations.ClosedGatesPushSilence : Prop :=
  (State.reset.core1.mmix = 0#12 ∧ State.reset.core1.fxEn = false)
  ∧ ∀ s : State, s.core1.mmix = 0#12 → s.core1.fxEn = false →
    ∃ t, exec .tick s = .next t ∧ t.out.l = 0#16 ∧ t.out.r = 0#16 ∧ t.core1.mmix = 0#12 ∧ t.core1.fxEn = false

/-! ## Invariants -/

/-- The invariant of 10_state.md R38, R24, R33, R23 and of the memory's canonical form holds after reset. -/
def Obligations.InvariantAtReset : Prop := State.reset.Inv config

/-- Every step, whatever the event, keeps the invariant (R38, R24, R62, R121, R309): envelope levels non-negative, an Off voice at
level and output 0, read positions below one sample, the interpolation history in i16 range, ring positions in range, reserved and
read-only shadows 0; memory in canonical form; every valid cache entry at or above `DYN_LINE` and equal to a decode of the current
memory. -/
def Obligations.EveryStepKeepsInvariant : Prop :=
  ∀ s t : State, s.Inv config → step s = .next t → t.Inv config

/-! ## Rules of the whole machine -/

/-- A pending interrupt is cleared by `rst`, by `RESET` and by an `ATTR` write with bit 1 = 0 to that core, and by nothing else
(R305, R270). -/
def Obligations.InterruptClearedOnlyByAttrOrReset : Prop :=
  ∀ (s t : State) (c : CoreId), step s = .next t → (s.core c).irqPending = true → (t.core c).irqPending = false →
    (∃ rest, s.io.pending = .rst :: rest)
    ∨ ∃ w inputs rest, s.io.pending = .word w inputs :: rest ∧ s.burstRemaining = 0#16
        ∧ (decode w = .ok .reset ∨ ∃ d, decode w = .ok (.wregAttr c d) ∧ d.getLsbD 1 = false)

/-- An ENDX bit is cleared by `rst`, by `RESET`, by a write to either ENDX register of its core and by a key-on of its voice, and by
nothing else (R306). -/
def Obligations.EndxClearedOnlyByKeyOnWriteOrReset : Prop :=
  ∀ (s t : State) (c : CoreId) (v : VoiceId), step s = .next t → maskBit (s.core c).endx v = true →
    maskBit (t.core c).endx v = false →
    (∃ rest, s.io.pending = .rst :: rest)
    ∨ ∃ w inputs rest, s.io.pending = .word w inputs :: rest ∧ s.burstRemaining = 0#16
        ∧ (decode w = .ok .reset ∨ ∃ d, decode w = .ok (.wregEndxLo c d) ∨ decode w = .ok (.wregEndxHi c d)
            ∨ (decode w = .ok (.wregKonLo c d) ∧ selectedLo d v = true)
            ∨ (decode w = .ok (.wregKonHi c d) ∧ selectedHi d v = true))

/-- The error latch is sticky: once set it and a recorded code stay until `rst` or `RESET` (R300, R26). -/
def Obligations.ErrorLatchClearedOnlyByReset : Prop :=
  ∀ s t : State, step s = .next t → s.cmdErr = true →
    (t.cmdErr = true ∧ (s.errCode ≠ 0#2 → t.errCode = s.errCode))
    ∨ (∃ rest, s.io.pending = .rst :: rest)
    ∨ ∃ w inputs rest, s.io.pending = .word w inputs :: rest ∧ s.burstRemaining = 0#16 ∧ decode w = .ok .reset

/-- Who can change a byte of sample RAM, and where: `rst`; a payload word and a `DATA` write, at the running address; an odd tick,
in an enabled effects region (R60, R62, R285, R281, R236 a). -/
def Obligations.MemoryWritersAreFour : Prop :=
  ∀ (s t : State) (b : Nat), step s = .next t → t.readByte b ≠ s.readByte b →
    (∃ rest, s.io.pending = .rst :: rest)
    ∨ ∃ w inputs rest, s.io.pending = .word w inputs :: rest
        ∧ ((s.burstRemaining ≠ 0#16 ∧ b / 2 = (s.core s.burstCore).tda.toNat)
          ∨ (s.burstRemaining = 0#16 ∧ ∃ c d, decode w = .ok (.wregData c d) ∧ b / 2 = (s.core c).tda.toNat)
          ∨ (s.burstRemaining = 0#16 ∧ decode w = .ok .tick ∧ s.tick.getLsbD 0 = true
            ∧ ∃ c, (s.core c).fxEn = true ∧ InReverbRegion (s.core c) (b / 2)))

/-! ## The parts of a tick -/

/-- One envelope step in integers, from a non-negative level, phase by phase; the parameters and `releasing` stay
(R172 to R180): `none` is the stop of R149. -/
def Obligations.EnvelopeStep : Prop :=
  ∀ (cfg : Config) (a : Adsr), 0 ≤ a.value.toInt →
    let x := a.value.toInt
    (a.phase = .attack → a.releasing = false →
      let nv := x + cfg.atkStep a.attackRate a.attackMode a.value
      ∃ b, adsrNext cfg a = some b ∧ b = { a with value := b.value, phase := if 0x7fffffff ≤ nv then .decay else .attack }
        ∧ b.value.toInt = if 0x7fffffff ≤ nv then 0x7fffffff else nv)
    ∧ (a.phase = .decay → a.releasing = false →
      let nv := max (x - cfg.decStep a.decayRate a.value) 0
      ∃ b, adsrNext cfg a = some b ∧ b.value.toInt = nv
        ∧ b = { a with value := b.value, phase := if nv ≤ (a.sustainLevel.toNat + 1) * 0x8000000 - 1 then .sustain else .decay })
    ∧ (a.phase = .sustain → a.releasing = false → a.sustainMode.getLsbD 1 = false →
      ∃ b, adsrNext cfg a = some b ∧ b = { a with value := b.value }
        ∧ b.value.toInt = min (x + cfg.susStep a.sustainRate a.sustainMode a.value) 0x7fffffff)
    ∧ (a.phase = .sustain → a.releasing = false → a.sustainMode.getLsbD 1 = true →
      let nv := x - cfg.susStep a.sustainRate a.sustainMode a.value
      (nv ≤ 0 → adsrNext cfg a = none)
      ∧ (0 < nv → ∃ b, adsrNext cfg a = some b ∧ b = { a with value := b.value } ∧ b.value.toInt = nv))
    ∧ (a.phase = .release ∨ (a.phase ≠ .off ∧ a.releasing = true) →
      let nv := x - cfg.relStep a.releaseRate a.releaseMode a.value
      (nv ≤ 0 → adsrNext cfg a = none)
      ∧ (0 < nv → ∃ b, adsrNext cfg a = some b ∧ b = { a with value := b.value, phase := .release } ∧ b.value.toInt = nv))
    ∧ (a.phase = .off → adsrNext cfg a = some a)

/-- A volume slide's step in integers: a fixed slide stays; a sliding one moves by its delta in its direction and is clamped to its
range, its mode unchanged (the pseudocode of R193; one sentence of its corner cases says otherwise, notes/assumptions/20.md). -/
def Obligations.VolumeSlideStep : Prop :=
  ∀ (cfg : Config) (x : Slide),
    (x.fixed = true → slideStep cfg x = x)
    ∧ (x.fixed = false →
      let lo : Int := if x.neg then -0x8000 else 0
      let d : Int := cfg.slideDelta x.exp x.dec x.increment x.value
      let nv := if x.dec then x.value.toInt - d else x.value.toInt + d
      (slideStep cfg x).value.toInt = min (max nv lo) 0x7fff ∧ slideStep cfg x = { x with value := (slideStep cfg x).value })

/-- `get_block` on a hit answers the entry and touches nothing; on a miss it answers the decode of the block with the caller's
history and, at or above `DYN_LINE`, makes it the entry of its index; memory and the cores stay (R120, R121). -/
def Obligations.GetBlockHitAndMiss : Prop :=
  ∀ (cfg : Config) (s : State) (a : Addr) (p1 p2 : Half),
    (∀ x, s.cache.entry (a.toNat / 8) = some x → s.getBlock cfg a p1 p2 = (s, x))
    ∧ (s.cache.entry (a.toNat / 8) = none →
      let got := s.getBlock cfg a p1 p2
      got.2 = decodeBlock cfg s.mem (BitVec.ofNat 20 (a.toNat / 8 * 8)) p1 p2
      ∧ (∀ i, got.1.cache.entry i = if i = a.toNat / 8 ∧ cfg.dynLine ≤ a.toNat then some got.2 else s.cache.entry i)
      ∧ got.1.mem = s.mem ∧ SameCores s got.1 ∧ SameGlobals s got.1)

/-- Coherence: after a write to any word of a block, the next `get_block` on that block decodes the memory as written
(R73, R128 b). -/
def Obligations.CacheIsCoherent : Prop :=
  ∀ (cfg : Config) (s : State) (a b : Addr) (d p1 p2 : Half), Memory.wf cfg s.mem → b.toNat / 8 = a.toNat / 8 →
    let u := s.memWrite cfg b d
    u.memRead cfg b = d ∧ (u.getBlock cfg a p1 p2).2 = decodeBlock cfg u.mem (BitVec.ofNat 20 (a.toNat / 8 * 8)) p1 p2

/-- Below `DYN_LINE` nothing is ever cached: a fetch misses, sets nothing, and a second one with the same history answers the same
samples (R68, R73, R128 c). -/
def Obligations.BelowTheLineNeverCached : Prop :=
  ∀ (cfg : Config) (s : State) (a : Addr) (p1 p2 : Half), CacheOk cfg s.mem s.cache → a.toNat < cfg.dynLine →
    s.cache.valid (a.toNat / 8) = false ∧ (s.getBlock cfg a p1 p2).1 = s
      ∧ ((s.getBlock cfg a p1 p2).1.getBlock cfg a p1 p2).2 = (s.getBlock cfg a p1 p2).2

/-- The block decoder, sample by sample: sample i is the saturated sum of its delta and the prediction from the two samples before
it (the seeds before the first); its nibble is bits 4(i mod 4) up of word base + 1 + i div 4; the header is the low byte of word
base (R122, R124). -/
def Obligations.BlockDecode : Prop :=
  ∀ (cfg : Config) (m : Memory) (base : Addr) (p1 p2 : Half),
    let x := decodeBlock cfg m base p1 p2
    let h := (Memory.word cfg m base).toNat % 256
    let coef := cfg.adpcmCoef (BitVec.ofNat 4 (h / 16))
    let prev : Nat → Int := fun i => if i = 0 then p2.toInt else if i = 1 then p1.toInt else ((x.toList[i - 2]?).getD 0#16).toInt
    ∀ i : Fin 28,
      let n : Int := (BitVec.ofNat 4 ((Memory.word cfg m (base + BitVec.ofNat 20 (1 + i.val / 4))).toNat / 16 ^ (i.val % 4))).toInt
      x[i.val].toInt = min (max (n * 4096 / 2 ^ (h % 16) + (coef.1 * prev (i.val + 1) + coef.2 * prev i.val) / 64) (-32768)) 32767

/-- A fetch: the base of the block at `next_addr` is checked for both cores' match addresses, the flags are those in memory, a
loop-start flag records the base, the samples are those `get_block` answers, the history is their last two, `next_addr` is the next
block, wrapping; the cache is what that `get_block` leaves: as it was below DYN_LINE and on a hit, and on a miss with the decoded
samples as the entry of the block. Of both cores nothing but the pending interrupts changes, and the other voices, memory and the
globals stay (R146, R147, R304 a, R120, R121). -/
def Obligations.BlockFetch : Prop :=
  ∀ (cfg : Config) (s : State) (c : CoreId) (v : VoiceId),
    let vc := s.voice c v
    let base : Addr := BitVec.ofNat 20 (vc.nextAddr.toNat / 8 * 8)
    let f : BitVec 3 := BitVec.ofNat 3 ((Memory.word cfg s.mem base).toNat / 256)
    let x := (s.getBlock cfg base vc.prev1 vc.prev2).2
    let t := s.fetchBlock cfg c v
    t.voice c v = { vc with
        loopFlags := f, loopStartAddr := if f.getLsbD 2 then base else vc.loopStartAddr, blk := x, prev1 := x[27], prev2 := x[26]
        nextAddr := BitVec.ofNat 20 (base.toNat + 8), blkPos := 0 }
    ∧ t.cache = (s.getBlock cfg base vc.prev1 vc.prev2).1.cache
    ∧ (∀ i, t.cache.entry i = if i = base.toNat / 8 ∧ cfg.dynLine ≤ base.toNat then some x else s.cache.entry i)
    ∧ (∀ d, (t.core d).shadow = (s.core d).shadow
      ∧ (t.core d).control = { (s.core d).control with
          irqPending := (s.core d).irqPending || ((s.core d).irqEn && (s.core d).irqAddr == base) })
    ∧ (∀ d w, ¬(d = c ∧ w = v) → t.voice d w = s.voice d w) ∧ t.mem = s.mem ∧ SameGlobals s t

/-- What ends a block: without loop-end nothing; loop-end with loop continues at the loop start and sets no flag; loop-end without
loop stops the voice: Off, level and output 0, its ENDX bit set and no other, every other field of it kept. Nothing else of either
core changes, and the other voices, memory, the cache and the globals stay (R145, R149). -/
def Obligations.EndOfBlock : Prop :=
  ∀ (s : State) (c : CoreId) (v : VoiceId),
    let vc := s.voice c v
    let t := s.endOfBlock c v
    (vc.loopFlags.getLsbD 0 = false → t = s)
    ∧ (vc.loopFlags.getLsbD 0 = true → vc.loopFlags.getLsbD 1 = true →
      t.voice c v = { vc with nextAddr := vc.loopStartAddr } ∧ ∀ d, (t.core d).endx = (s.core d).endx)
    ∧ (vc.loopFlags.getLsbD 0 = true → vc.loopFlags.getLsbD 1 = false →
      t.voice c v = { vc with adsr := { vc.adsr with phase := .off, value := 0#32 }, lastOutput := 0#32 }
        ∧ ∀ d w, maskBit (t.core d).endx w = (maskBit (s.core d).endx w || (d == c && w == v)))
    ∧ (∀ d, (t.core d).shadow = (s.core d).shadow ∧ (t.core d).control = { (s.core d).control with endx := (t.core d).endx })
    ∧ (∀ d w, ¬(d = c ∧ w = v) → t.voice d w = s.voice d w) ∧ t.mem = s.mem ∧ t.cache = s.cache ∧ SameGlobals s t

/-- The pitch of a tick: unmodified unless the voice is modulated and not voice 0; modulation by the previous voice's output never
lowers it, leaves it at output 0 and doubles it at |output| = 32768 (R141, R142). -/
def Obligations.PitchModulation : Prop :=
  ∀ (s : State) (c : CoreId) (v : VoiceId),
    let p := (s.voice c v).pitch.toNat
    ((maskBit (s.core c).pmon v = false ∨ v.val = 0) → s.effectivePitch c v = p)
    ∧ (∀ u : VoiceId, u.val + 1 = v.val → maskBit (s.core c).pmon v = true →
      s.effectivePitch c v = p * (32768 + (s.voice c u).lastOutput.toInt.natAbs) / 32768
      ∧ p ≤ s.effectivePitch c v
      ∧ ((s.voice c u).lastOutput = 0#32 → s.effectivePitch c v = p)
      ∧ ((s.voice c u).lastOutput.toInt.natAbs = 32768 → s.effectivePitch c v = 2 * p))

/-- Interpolation by policy, on a voice's four last samples p0..p3 and the low 12 bits f of its position: nearest is p3, linear and
cubic are the formulas of R156 and R157, every shift a floor. Linear stays between its two taps and is p2 at f = 0; cubic is p1 at
f = 0 and stays within 393216 for taps in i16 range (R154 to R157). -/
def Obligations.InterpolationByPolicy : Prop :=
  (∀ (cfg : Config) (vc : Voice),
    let p0 := vc.hist.h0.toInt
    let p1 := vc.hist.h1.toInt
    let p2 := vc.hist.h2.toInt
    let p3 := vc.hist.h3.toInt
    let f : Int := vc.samplePosFrac.toNat % 4096
    let a := 3 * (p1 - p2) + p3 - p0
    let b := 2 * p0 - 5 * p1 + 4 * p2 - p3
    let k := p2 - p0
    (cfg.interp = .nearest → vc.interpolate cfg = p3)
    ∧ (cfg.interp = .linear → vc.interpolate cfg = p2 + (p3 - p2) * f / 4096)
    ∧ (cfg.interp = .cubic → vc.interpolate cfg = p1 + (((a * f / 4096 + b) * f / 4096 + k) * f / 8192)))
  ∧ (∀ p2 p3 f : Int, 0 ≤ f → f < 4096 → min p2 p3 ≤ linear p2 p3 f ∧ linear p2 p3 f ≤ max p2 p3)
  ∧ (∀ p2 p3 : Int, linear p2 p3 0 = p2)
  ∧ (∀ p0 p1 p2 p3 : Int, cubic p0 p1 p2 p3 0 = p1)
  ∧ (∀ p0 p1 p2 p3 f : Int, 0 ≤ f → f < 4096 → |p0| ≤ 32768 → |p1| ≤ 32768 → |p2| ≤ 32768 → |p3| ≤ 32768 →
      |cubic p0 p1 p2 p3 f| ≤ 393216)

/-- The tick of a voice. An Off voice contributes (0, 0), its output becomes 0, its two slides step, and nothing else changes, the
register shadows of both cores included (R162, R197). A sounding voice takes its sample, from the noise generator or by pitch, pull
loop and interpolation (`VoiceSampled`: R141, R143, R144, R154, R158). If that stopped it, it contributes (0, 0). Else its envelope
steps: where that ends, the voice is Off at level and output 0, its ENDX bit set, and contributes (0, 0); where not, the output is
the sample times the stepped level, over 2^31, and the contribution that output times each volume's value before its slide steps,
over 2^15, all floored (R140, R149, R172, R195, R196). Memory, the other voices, the shadows and the globals stay. -/
def Obligations.VoiceTick : Prop :=
  ∀ (cfg : Config) (s : State) (c : CoreId) (v : VoiceId),
    let t := s.voiceTick cfg c v
    let slid (vc : Voice) (out : Int) : Voice :=
      { vc with lastOutput := BitVec.ofInt 32 out, volL := slideStep cfg vc.volL, volR := slideStep cfg vc.volR }
    ((s.voice c v).adsr.phase = .off → t.2.l = 0 ∧ t.2.r = 0 ∧ VoiceBecomes c v (slid (s.voice c v) 0) false s t.1)
    ∧ ((s.voice c v).adsr.phase ≠ .off →
      (∃ u x, VoiceSampled cfg c v s u x
        ∧ (x = none → t.2.l = 0 ∧ t.2.r = 0 ∧ VoiceBecomes c v (slid (u.voice c v) 0) false u t.1)
        ∧ (∀ y, x = some y → adsrNext cfg (u.voice c v).adsr = none → t.2.l = 0 ∧ t.2.r = 0
          ∧ VoiceBecomes c v
              (slid { u.voice c v with adsr := { (u.voice c v).adsr with phase := .off, value := 0#32 } } 0) true u t.1)
        ∧ (∀ y a, x = some y → adsrNext cfg (u.voice c v).adsr = some a →
          let out := y * a.value.toInt / 2 ^ 31
          t.2.l = out * (u.voice c v).volL.value.toInt / 2 ^ 15 ∧ t.2.r = out * (u.voice c v).volR.value.toInt / 2 ^ 15
          ∧ VoiceBecomes c v (slid { u.voice c v with adsr := a } out) false u t.1))
      ∧ t.1.mem = s.mem ∧ SameGlobals s t.1 ∧ (∀ d w, ¬(d = c ∧ w = v) → t.1.voice d w = s.voice d w)
      ∧ ∀ d, (t.1.core d).shadow = (s.core d).shadow)

/-- The tick of a sounding noise voice leaves its cursor alone: position, history, addresses, block, decoder history and flags stay,
no block is fetched, no match address is checked (R158). -/
def Obligations.NoiseVoiceKeepsCursor : Prop :=
  ∀ (cfg : Config) (s : State) (c : CoreId) (v : VoiceId), maskBit (s.core c).non v = true →
    let vc := s.voice c v
    let t := (s.voiceTick cfg c v).1
    let w := t.voice c v
    w.samplePosFrac = vc.samplePosFrac ∧ w.hist = vc.hist ∧ w.nextAddr = vc.nextAddr ∧ w.loopStartAddr = vc.loopStartAddr
      ∧ w.blk = vc.blk ∧ w.blkPos = vc.blkPos ∧ w.prev1 = vc.prev1 ∧ w.prev2 = vc.prev2 ∧ w.loopFlags = vc.loopFlags
      ∧ t.mem = s.mem ∧ t.cache = s.cache ∧ ∀ k, (t.core k).irqPending = (s.core k).irqPending

/-- The mix of a core, every stage a saturated sum: the 24 voices tick in order, from `st 0`, the state before, to `st 24`, and
contribute `o v`; each of the four sums adds the voices whose routing bit is 1 (R199); the sound-data input is scaled by the input
volume (R200); twelve gates join voices, input and external input (R201); with effects on the reverb takes the wet path, its result
is doubled and scaled by the effects volume and added (R202), with effects off it is not called (R203); the master volume scales
(R204). The answer is in i16 range on both channels whatever the inputs (R207). After it the core's six slides have stepped and its
ring position has advanced (R205, R209), and the rest is as the voices and the reverb leave it. -/
def Obligations.CoreMix : Prop :=
  ∀ (cfg : Config) (s : State) (c : CoreId) (ext inp : Sig),
    let t := s.mixCore cfg c ext inp
    let k := s.core c
    (t.2.l ≤ 32767 ∧ -32768 ≤ t.2.l ∧ t.2.r ≤ 32767 ∧ -32768 ≤ t.2.r)
    ∧ ∃ (st : Nat → State) (o : VoiceId → Sig),
      st 0 = s ∧ (∀ v : VoiceId, (st v.val).voiceTick cfg c v = (st (v.val + 1), o v))
      ∧ let sum (m : VoiceMask) (channel : Sig → Int) : Int := clip (∑ v : VoiceId, if maskBit m v then channel (o v) else 0)
        let path (i j n : Nat) (voices input external : Int) : Int :=
          clip ((if k.mmix.getLsbD i then voices else 0) + (if k.mmix.getLsbD j then input else 0)
            + (if k.mmix.getLsbD n then external else 0))
        let vol (x : Int) (y : Slide) : Int := x * y.value.toInt / 32768
        let dryL := path 11 7 3 (sum k.vmixDl Sig.l) (vol inp.l k.ivolL) ext.l
        let dryR := path 10 6 2 (sum k.vmixDr Sig.r) (vol inp.r k.ivolR) ext.r
        let wetL := path 9 5 1 (sum k.vmixWl Sig.l) (vol inp.l k.ivolL) ext.l
        let wetR := path 8 4 0 (sum k.vmixWr Sig.r) (vol inp.r k.ivolR) ext.r
        let rv := (st 24).reverbTick cfg c ⟨wetL, wetR⟩
        let preL := if k.fxEn then clip (dryL + vol (clip (2 * rv.2.l)) k.evolL) else dryL
        let preR := if k.fxEn then clip (dryR + vol (clip (2 * rv.2.r)) k.evolR) else dryR
        let u := if k.fxEn then rv.1 else st 24
        t.2.l = clip (vol preL k.mvolL) ∧ t.2.r = clip (vol preR k.mvolR)
        ∧ t.1.core c = { u.core c with
            mvolL := slideStep cfg k.mvolL, mvolR := slideStep cfg k.mvolR, evolL := slideStep cfg k.evolL
            evolR := slideStep cfg k.evolR, ivolL := slideStep cfg k.ivolL, ivolR := slideStep cfg k.ivolR
            outPos := (k.outPos + 1) % cfg.outRingLen }
        ∧ t.1.core (otherCore c) = u.core (otherCore c) ∧ t.1.mem = u.mem ∧ t.1.cache = u.cache ∧ SameGlobals u t.1

/-- The reverb on an even tick: the input is held, the previous result returned, nothing else changes (R223, R236 a). -/
def Obligations.ReverbEvenTick : Prop :=
  ∀ (cfg : Config) (s : State) (c : CoreId) (x : Sig), s.tick.getLsbD 0 = false →
    let t := s.reverbTick cfg c x
    t.2.l = (s.core c).revLast.l.toInt ∧ t.2.r = (s.core c).revLast.r.toInt
    ∧ t.1.core c = { s.core c with revHeld := (t.1.core c).revHeld }
    ∧ (t.1.core c).revHeld.l = BitVec.ofInt 16 x.l ∧ (t.1.core c).revHeld.r = BitVec.ofInt 16 x.r
    ∧ t.1.core (otherCore c) = s.core (otherCore c) ∧ t.1.mem = s.mem ∧ t.1.cache = s.cache ∧ SameGlobals s t.1

/-- The reverb on an odd tick: the input is filtered with the held one; sample RAM and cache are what the eight stores of the network
leave, in the order of R227, each value by its formula (`afterIir`, `afterMix`: R228 to R233); the result is the saturated sum of the
two mix destinations read back (R234), in i16 range, kept for the next even tick; every store falls inside the region; the cursor
advances by one modulo its length and is below it; the held input stays (R225 to R235, R236 a). -/
def Obligations.ReverbOddTick : Prop :=
  ∀ (cfg : Config) (s : State) (c : CoreId) (x : Sig), s.tick.getLsbD 0 = true →
    let k := s.core c
    let n := max k.esa.toNat k.eea.toNat - min k.esa.toNat k.eea.toNat + 1
    let t := s.reverbTick cfg c x
    let xl := (cfg.reverbLpf k.revHeld.l (BitVec.ofInt 16 x.l)).toInt
    let xr := (cfg.reverbLpf k.revHeld.r (BitVec.ofInt 16 x.r)).toInt
    let m := afterMix cfg k (afterIir cfg k xl xr s)
    (t.1.mem = m.mem ∧ t.1.cache = m.cache
      ∧ t.2.l = clip (tapValue cfg m k .mixDestA0 + tapValue cfg m k .mixDestB0)
      ∧ t.2.r = clip (tapValue cfg m k .mixDestA1 + tapValue cfg m k .mixDestB1))
    ∧ (∀ b, ¬ InReverbRegion k (b / 2) → Memory.byte cfg t.1.mem b = Memory.byte cfg s.mem b)
    ∧ (t.1.core c).revCursor.toNat = (k.revCursor.toNat + 1) % n ∧ (t.1.core c).revCursor.toNat < n
    ∧ -32768 ≤ t.2.l ∧ t.2.l ≤ 32767 ∧ -32768 ≤ t.2.r ∧ t.2.r ≤ 32767
    ∧ (t.1.core c).revLast.l.toInt = t.2.l ∧ (t.1.core c).revLast.r.toInt = t.2.r ∧ (t.1.core c).revHeld = k.revHeld
    ∧ t.1.core c = { k with revCursor := (t.1.core c).revCursor, revLast := (t.1.core c).revLast }
    ∧ t.1.core (otherCore c) = s.core (otherCore c) ∧ SameGlobals s t.1

/-- A silent reverb stays silent: with every word of the region 0 and the held and the current input 0, an odd tick's result is
(0, 0) and the region is still all 0, at every configuration, so in this machine (R236 b). That every legal low-pass answers 0 on two
zeros is carried by `Config`, read from R236 b (DEDUCED, notes/assumptions/19.md). -/
def Obligations.SilentReverbStaysSilent : Prop :=
  ∀ (cfg : Config) (s : State) (c : CoreId), Memory.wf cfg s.mem → s.tick.getLsbD 0 = true →
    (s.core c).revHeld.l = 0#16 → (s.core c).revHeld.r = 0#16 →
    (∀ a : Addr, InReverbRegion (s.core c) a.toNat → s.memRead cfg a = 0#16) →
      let t := s.reverbTick cfg c ⟨0, 0⟩
      t.2.l = 0 ∧ t.2.r = 0 ∧ ∀ a : Addr, InReverbRegion (s.core c) a.toNat → t.1.memRead cfg a = 0#16

/-- A match check looks at both cores whichever caused it: a core's interrupt becomes pending exactly if it is enabled there and
its address is equal on all 20 bits; nothing else changes (R303). -/
def Obligations.MatchCheckLooksAtBothCores : Prop :=
  ∀ (s : State) (a : Addr),
    (∀ c, (s.irqCheck a).core c = { s.core c with
        irqPending := (s.core c).irqPending || ((s.core c).irqEn && decide ((s.core c).irqAddr.toNat = a.toNat)) })
    ∧ (s.irqCheck a).mem = s.mem ∧ (s.irqCheck a).cache = s.cache ∧ SameGlobals s (s.irqCheck a)
end

