-- ==== Sys2Proof/Laws/State.lean ====
section
/-! SUPPORT. One lemma per field per update of the state: what an update leaves alone, and what it sets. -/

namespace Sys2Proof.Machine

/-! ## `modCore`, `modVoice` -/

theorem otherCore_ne (c : CoreId) : otherCore c ≠ c := by cases c <;> decide

@[simp] theorem otherCore_otherCore (c : CoreId) : otherCore (otherCore c) = c := by cases c <;> rfl

theorem State.core_modCore (s : State) (c d : CoreId) (f : Core → Core) :
    (s.modCore c f).core d = if d = c then f (s.core c) else s.core d := by cases c <;> cases d <;> rfl

@[simp] theorem State.core_modCore_same (s : State) (c : CoreId) (f : Core → Core) :
    (s.modCore c f).core c = f (s.core c) := by cases c <;> rfl

@[simp] theorem State.core_modCore_other (s : State) (c : CoreId) (f : Core → Core) :
    (s.modCore c f).core (otherCore c) = s.core (otherCore c) := by cases c <;> rfl

theorem State.core_modCore_ne (s : State) {c d : CoreId} (f : Core → Core) (h : d ≠ c) :
    (s.modCore c f).core d = s.core d := by rw [State.core_modCore, if_neg h]

@[simp] theorem State.mem_modCore (s : State) (c : CoreId) (f : Core → Core) : (s.modCore c f).mem = s.mem := by
  cases c <;> rfl

@[simp] theorem State.cache_modCore (s : State) (c : CoreId) (f : Core → Core) : (s.modCore c f).cache = s.cache := by
  cases c <;> rfl

@[simp] theorem State.tick_modCore (s : State) (c : CoreId) (f : Core → Core) : (s.modCore c f).tick = s.tick := by
  cases c <;> rfl

@[simp] theorem State.cmdErr_modCore (s : State) (c : CoreId) (f : Core → Core) : (s.modCore c f).cmdErr = s.cmdErr := by
  cases c <;> rfl

@[simp] theorem State.errCode_modCore (s : State) (c : CoreId) (f : Core → Core) : (s.modCore c f).errCode = s.errCode := by
  cases c <;> rfl

@[simp] theorem State.burstRemaining_modCore (s : State) (c : CoreId) (f : Core → Core) : (s.modCore c f).burstRemaining = s.burstRemaining := by
  cases c <;> rfl

@[simp] theorem State.burstCore_modCore (s : State) (c : CoreId) (f : Core → Core) : (s.modCore c f).burstCore = s.burstCore := by
  cases c <;> rfl

@[simp] theorem State.out_modCore (s : State) (c : CoreId) (f : Core → Core) : (s.modCore c f).out = s.out := by
  cases c <;> rfl

@[simp] theorem State.rspData_modCore (s : State) (c : CoreId) (f : Core → Core) : (s.modCore c f).rspData = s.rspData := by
  cases c <;> rfl

@[simp] theorem State.io_modCore (s : State) (c : CoreId) (f : Core → Core) : (s.modCore c f).io = s.io := by
  cases c <;> rfl

@[simp] theorem State.mem_modVoice (s : State) (c : CoreId) (v : VoiceId) (f : Voice → Voice) :
    (s.modVoice c v f).mem = s.mem := by cases c <;> rfl

@[simp] theorem State.cache_modVoice (s : State) (c : CoreId) (v : VoiceId) (f : Voice → Voice) :
    (s.modVoice c v f).cache = s.cache := by cases c <;> rfl

@[simp] theorem State.tick_modVoice (s : State) (c : CoreId) (v : VoiceId) (f : Voice → Voice) :
    (s.modVoice c v f).tick = s.tick := by cases c <;> rfl

@[simp] theorem State.cmdErr_modVoice (s : State) (c : CoreId) (v : VoiceId) (f : Voice → Voice) :
    (s.modVoice c v f).cmdErr = s.cmdErr := by cases c <;> rfl

@[simp] theorem State.errCode_modVoice (s : State) (c : CoreId) (v : VoiceId) (f : Voice → Voice) :
    (s.modVoice c v f).errCode = s.errCode := by cases c <;> rfl

@[simp] theorem State.burstRemaining_modVoice (s : State) (c : CoreId) (v : VoiceId) (f : Voice → Voice) :
    (s.modVoice c v f).burstRemaining = s.burstRemaining := by cases c <;> rfl

@[simp] theorem State.burstCore_modVoice (s : State) (c : CoreId) (v : VoiceId) (f : Voice → Voice) :
    (s.modVoice c v f).burstCore = s.burstCore := by cases c <;> rfl

@[simp] theorem State.out_modVoice (s : State) (c : CoreId) (v : VoiceId) (f : Voice → Voice) :
    (s.modVoice c v f).out = s.out := by cases c <;> rfl

@[simp] theorem State.rspData_modVoice (s : State) (c : CoreId) (v : VoiceId) (f : Voice → Voice) :
    (s.modVoice c v f).rspData = s.rspData := by cases c <;> rfl

@[simp] theorem State.io_modVoice (s : State) (c : CoreId) (v : VoiceId) (f : Voice → Voice) :
    (s.modVoice c v f).io = s.io := by cases c <;> rfl

theorem State.core_modVoice (s : State) (c d : CoreId) (v : VoiceId) (f : Voice → Voice) :
    (s.modVoice c v f).core d = if d = c then (s.core c).modVoice v f else s.core d := State.core_modCore _ _ _ _

@[simp] theorem State.core_modVoice_same (s : State) (c : CoreId) (v : VoiceId) (f : Voice → Voice) :
    (s.modVoice c v f).core c = (s.core c).modVoice v f := State.core_modCore_same _ _ _

@[simp] theorem State.core_modVoice_other (s : State) (c : CoreId) (v : VoiceId) (f : Voice → Voice) :
    (s.modVoice c v f).core (otherCore c) = s.core (otherCore c) := State.core_modCore_other _ _ _

/-! ## The voices of a core -/

theorem Core.voice_modVoice (k : Core) (v w : VoiceId) (f : Voice → Voice) :
    (k.modVoice v f).voice w = if w = v then f (k.voice v) else k.voice w := by
  simp only [Core.voice, Core.modVoice, Vector.getElem_set]
  by_cases h : w = v
  · subst h; simp
  · rw [if_neg (fun hv => h (Fin.ext hv.symm)), if_neg h]

@[simp] theorem Core.voice_modVoice_same (k : Core) (v : VoiceId) (f : Voice → Voice) :
    (k.modVoice v f).voice v = f (k.voice v) := by rw [Core.voice_modVoice, if_pos rfl]

theorem Core.voice_modVoice_ne (k : Core) {v w : VoiceId} (f : Voice → Voice) (h : w ≠ v) :
    (k.modVoice v f).voice w = k.voice w := by rw [Core.voice_modVoice, if_neg h]

@[simp] theorem Core.shadow_modVoice (k : Core) (v : VoiceId) (f : Voice → Voice) : (k.modVoice v f).shadow = k.shadow := rfl

@[simp] theorem Core.pmon_modVoice (k : Core) (v : VoiceId) (f : Voice → Voice) : (k.modVoice v f).pmon = k.pmon := rfl

@[simp] theorem Core.non_modVoice (k : Core) (v : VoiceId) (f : Voice → Voice) : (k.modVoice v f).non = k.non := rfl

@[simp] theorem Core.vmixDl_modVoice (k : Core) (v : VoiceId) (f : Voice → Voice) : (k.modVoice v f).vmixDl = k.vmixDl := rfl

@[simp] theorem Core.vmixDr_modVoice (k : Core) (v : VoiceId) (f : Voice → Voice) : (k.modVoice v f).vmixDr = k.vmixDr := rfl

@[simp] theorem Core.vmixWl_modVoice (k : Core) (v : VoiceId) (f : Voice → Voice) : (k.modVoice v f).vmixWl = k.vmixWl := rfl

@[simp] theorem Core.vmixWr_modVoice (k : Core) (v : VoiceId) (f : Voice → Voice) : (k.modVoice v f).vmixWr = k.vmixWr := rfl

@[simp] theorem Core.mmix_modVoice (k : Core) (v : VoiceId) (f : Voice → Voice) : (k.modVoice v f).mmix = k.mmix := rfl

@[simp] theorem Core.fxEn_modVoice (k : Core) (v : VoiceId) (f : Voice → Voice) : (k.modVoice v f).fxEn = k.fxEn := rfl

@[simp] theorem Core.irqEn_modVoice (k : Core) (v : VoiceId) (f : Voice → Voice) : (k.modVoice v f).irqEn = k.irqEn := rfl

@[simp] theorem Core.irqAddr_modVoice (k : Core) (v : VoiceId) (f : Voice → Voice) : (k.modVoice v f).irqAddr = k.irqAddr := rfl

@[simp] theorem Core.irqPending_modVoice (k : Core) (v : VoiceId) (f : Voice → Voice) : (k.modVoice v f).irqPending = k.irqPending := rfl

@[simp] theorem Core.endx_modVoice (k : Core) (v : VoiceId) (f : Voice → Voice) : (k.modVoice v f).endx = k.endx := rfl

@[simp] theorem Core.tsa_modVoice (k : Core) (v : VoiceId) (f : Voice → Voice) : (k.modVoice v f).tsa = k.tsa := rfl

@[simp] theorem Core.tda_modVoice (k : Core) (v : VoiceId) (f : Voice → Voice) : (k.modVoice v f).tda = k.tda := rfl

@[simp] theorem Core.noise_modVoice (k : Core) (v : VoiceId) (f : Voice → Voice) : (k.modVoice v f).noise = k.noise := rfl

@[simp] theorem Core.outPos_modVoice (k : Core) (v : VoiceId) (f : Voice → Voice) : (k.modVoice v f).outPos = k.outPos := rfl

@[simp] theorem Core.mvolL_modVoice (k : Core) (v : VoiceId) (f : Voice → Voice) : (k.modVoice v f).mvolL = k.mvolL := rfl

@[simp] theorem Core.mvolR_modVoice (k : Core) (v : VoiceId) (f : Voice → Voice) : (k.modVoice v f).mvolR = k.mvolR := rfl

@[simp] theorem Core.evolL_modVoice (k : Core) (v : VoiceId) (f : Voice → Voice) : (k.modVoice v f).evolL = k.evolL := rfl

@[simp] theorem Core.evolR_modVoice (k : Core) (v : VoiceId) (f : Voice → Voice) : (k.modVoice v f).evolR = k.evolR := rfl

@[simp] theorem Core.ivolL_modVoice (k : Core) (v : VoiceId) (f : Voice → Voice) : (k.modVoice v f).ivolL = k.ivolL := rfl

@[simp] theorem Core.ivolR_modVoice (k : Core) (v : VoiceId) (f : Voice → Voice) : (k.modVoice v f).ivolR = k.ivolR := rfl

@[simp] theorem Core.esa_modVoice (k : Core) (v : VoiceId) (f : Voice → Voice) : (k.modVoice v f).esa = k.esa := rfl

@[simp] theorem Core.eea_modVoice (k : Core) (v : VoiceId) (f : Voice → Voice) : (k.modVoice v f).eea = k.eea := rfl

@[simp] theorem Core.off_modVoice (k : Core) (v : VoiceId) (f : Voice → Voice) : (k.modVoice v f).off = k.off := rfl

@[simp] theorem Core.coef_modVoice (k : Core) (v : VoiceId) (f : Voice → Voice) : (k.modVoice v f).coef = k.coef := rfl

@[simp] theorem Core.revCursor_modVoice (k : Core) (v : VoiceId) (f : Voice → Voice) : (k.modVoice v f).revCursor = k.revCursor := rfl

@[simp] theorem Core.revLast_modVoice (k : Core) (v : VoiceId) (f : Voice → Voice) : (k.modVoice v f).revLast = k.revLast := rfl

@[simp] theorem Core.revHeld_modVoice (k : Core) (v : VoiceId) (f : Voice → Voice) : (k.modVoice v f).revHeld = k.revHeld := rfl

@[simp] theorem Core.control_modVoice (k : Core) (v : VoiceId) (f : Voice → Voice) :
    (k.modVoice v f).control = k.control := rfl

/-- A core is told by its shadow, its voices and the rest. -/
theorem Core.eq_of_parts {k k' : Core} (h1 : k.shadow = k'.shadow) (h2 : ∀ v, k.voice v = k'.voice v)
    (h3 : k.control = k'.control) : k = k' := by
  have hv : k.voices = k'.voices := by
    apply Vector.ext
    intro i hi
    exact h2 ⟨i, hi⟩
  cases k; cases k'
  simp only [Core.control, Core.mk.injEq] at *
  simp_all

@[simp] theorem State.voice_modVoice_same (s : State) (c : CoreId) (v : VoiceId) (f : Voice → Voice) :
    (s.modVoice c v f).voice c v = f (s.voice c v) := by simp [State.voice]

theorem State.voice_modVoice (s : State) (c d : CoreId) (v w : VoiceId) (f : Voice → Voice) :
    (s.modVoice c v f).voice d w = if d = c ∧ w = v then f (s.voice c v) else s.voice d w := by
  simp only [State.voice, State.core_modVoice]
  by_cases hd : d = c
  · subst hd; simp [Core.voice_modVoice]
  · simp [hd]

/-! ## The register shadow -/

theorem State.shadowAt_setShadow (s : State) (c : CoreId) (i : BitVec 9) (d : Half) (r : BitVec 9) :
    (s.setShadow c i d).shadowAt c r = if r.toNat = i.toNat then d else s.shadowAt c r := by
  simp only [State.shadowAt, State.setShadow, State.core_modCore_same, Vector.getElem_set]
  by_cases h : r.toNat = i.toNat
  · rw [if_pos h.symm, if_pos h]
  · rw [if_neg (Ne.symm h), if_neg h]

@[simp] theorem State.voice_setShadow (s : State) (c d : CoreId) (i : BitVec 9) (x : Half) (w : VoiceId) :
    (s.setShadow c i x).voice d w = s.voice d w := by cases c <;> cases d <;> rfl

@[simp] theorem State.control_setShadow (s : State) (c d : CoreId) (i : BitVec 9) (x : Half) :
    ((s.setShadow c i x).core d).control = (s.core d).control := by cases c <;> cases d <;> rfl

@[simp] theorem State.mem_setShadow (s : State) (c : CoreId) (i : BitVec 9) (x : Half) : (s.setShadow c i x).mem = s.mem := by
  cases c <;> rfl

@[simp] theorem State.cache_setShadow (s : State) (c : CoreId) (i : BitVec 9) (x : Half) : (s.setShadow c i x).cache = s.cache := by
  cases c <;> rfl

@[simp] theorem State.tick_setShadow (s : State) (c : CoreId) (i : BitVec 9) (x : Half) : (s.setShadow c i x).tick = s.tick := by
  cases c <;> rfl

@[simp] theorem State.cmdErr_setShadow (s : State) (c : CoreId) (i : BitVec 9) (x : Half) : (s.setShadow c i x).cmdErr = s.cmdErr := by
  cases c <;> rfl

@[simp] theorem State.errCode_setShadow (s : State) (c : CoreId) (i : BitVec 9) (x : Half) : (s.setShadow c i x).errCode = s.errCode := by
  cases c <;> rfl

@[simp] theorem State.burstRemaining_setShadow (s : State) (c : CoreId) (i : BitVec 9) (x : Half) : (s.setShadow c i x).burstRemaining = s.burstRemaining := by
  cases c <;> rfl

@[simp] theorem State.burstCore_setShadow (s : State) (c : CoreId) (i : BitVec 9) (x : Half) : (s.setShadow c i x).burstCore = s.burstCore := by
  cases c <;> rfl

@[simp] theorem State.out_setShadow (s : State) (c : CoreId) (i : BitVec 9) (x : Half) : (s.setShadow c i x).out = s.out := by
  cases c <;> rfl

@[simp] theorem State.rspData_setShadow (s : State) (c : CoreId) (i : BitVec 9) (x : Half) : (s.setShadow c i x).rspData = s.rspData := by
  cases c <;> rfl

@[simp] theorem State.io_setShadow (s : State) (c : CoreId) (i : BitVec 9) (x : Half) : (s.setShadow c i x).io = s.io := by
  cases c <;> rfl

/-! ## `irqCheck`, `memWrite` -/

@[simp] theorem State.mem_irqCheck (s : State) (a : Addr) : (s.irqCheck a).mem = s.mem := rfl

@[simp] theorem State.cache_irqCheck (s : State) (a : Addr) : (s.irqCheck a).cache = s.cache := rfl

@[simp] theorem State.tick_irqCheck (s : State) (a : Addr) : (s.irqCheck a).tick = s.tick := rfl

@[simp] theorem State.cmdErr_irqCheck (s : State) (a : Addr) : (s.irqCheck a).cmdErr = s.cmdErr := rfl

@[simp] theorem State.errCode_irqCheck (s : State) (a : Addr) : (s.irqCheck a).errCode = s.errCode := rfl

@[simp] theorem State.burstRemaining_irqCheck (s : State) (a : Addr) : (s.irqCheck a).burstRemaining = s.burstRemaining := rfl

@[simp] theorem State.burstCore_irqCheck (s : State) (a : Addr) : (s.irqCheck a).burstCore = s.burstCore := rfl

@[simp] theorem State.out_irqCheck (s : State) (a : Addr) : (s.irqCheck a).out = s.out := rfl

@[simp] theorem State.rspData_irqCheck (s : State) (a : Addr) : (s.irqCheck a).rspData = s.rspData := rfl

@[simp] theorem State.io_irqCheck (s : State) (a : Addr) : (s.irqCheck a).io = s.io := rfl

@[simp] theorem State.core_irqCheck (s : State) (a : Addr) (c : CoreId) : (s.irqCheck a).core c = (s.core c).irqCheck a := by
  cases c <;> rfl

@[simp] theorem Core.voices_irqCheck (k : Core) (a : Addr) : (k.irqCheck a).voices = k.voices := by
  unfold Core.irqCheck; split <;> rfl

@[simp] theorem Core.shadow_irqCheck (k : Core) (a : Addr) : (k.irqCheck a).shadow = k.shadow := by
  unfold Core.irqCheck; split <;> rfl

@[simp] theorem Core.control_irqCheck (k : Core) (a : Addr) :
    (k.irqCheck a).control = { k.control with irqPending := k.irqPending || (k.irqEn && k.irqAddr == a) } := by
  unfold Core.irqCheck; split
  · rename_i h; simp [Core.control, h]
  · rename_i h; rw [Bool.not_eq_true] at h; simp [Core.control, h]

@[simp] theorem Core.pmon_irqCheck (k : Core) (a : Addr) : (k.irqCheck a).pmon = k.pmon := by
  unfold Core.irqCheck; split <;> rfl

@[simp] theorem Core.non_irqCheck (k : Core) (a : Addr) : (k.irqCheck a).non = k.non := by
  unfold Core.irqCheck; split <;> rfl

@[simp] theorem Core.vmixDl_irqCheck (k : Core) (a : Addr) : (k.irqCheck a).vmixDl = k.vmixDl := by
  unfold Core.irqCheck; split <;> rfl

@[simp] theorem Core.vmixDr_irqCheck (k : Core) (a : Addr) : (k.irqCheck a).vmixDr = k.vmixDr := by
  unfold Core.irqCheck; split <;> rfl

@[simp] theorem Core.vmixWl_irqCheck (k : Core) (a : Addr) : (k.irqCheck a).vmixWl = k.vmixWl := by
  unfold Core.irqCheck; split <;> rfl

@[simp] theorem Core.vmixWr_irqCheck (k : Core) (a : Addr) : (k.irqCheck a).vmixWr = k.vmixWr := by
  unfold Core.irqCheck; split <;> rfl

@[simp] theorem Core.mmix_irqCheck (k : Core) (a : Addr) : (k.irqCheck a).mmix = k.mmix := by
  unfold Core.irqCheck; split <;> rfl

@[simp] theorem Core.fxEn_irqCheck (k : Core) (a : Addr) : (k.irqCheck a).fxEn = k.fxEn := by
  unfold Core.irqCheck; split <;> rfl

@[simp] theorem Core.irqEn_irqCheck (k : Core) (a : Addr) : (k.irqCheck a).irqEn = k.irqEn := by
  unfold Core.irqCheck; split <;> rfl

@[simp] theorem Core.irqAddr_irqCheck (k : Core) (a : Addr) : (k.irqCheck a).irqAddr = k.irqAddr := by
  unfold Core.irqCheck; split <;> rfl

@[simp] theorem Core.endx_irqCheck (k : Core) (a : Addr) : (k.irqCheck a).endx = k.endx := by
  unfold Core.irqCheck; split <;> rfl

@[simp] theorem Core.tsa_irqCheck (k : Core) (a : Addr) : (k.irqCheck a).tsa = k.tsa := by
  unfold Core.irqCheck; split <;> rfl

@[simp] theorem Core.tda_irqCheck (k : Core) (a : Addr) : (k.irqCheck a).tda = k.tda := by
  unfold Core.irqCheck; split <;> rfl

@[simp] theorem Core.noise_irqCheck (k : Core) (a : Addr) : (k.irqCheck a).noise = k.noise := by
  unfold Core.irqCheck; split <;> rfl

@[simp] theorem Core.outPos_irqCheck (k : Core) (a : Addr) : (k.irqCheck a).outPos = k.outPos := by
  unfold Core.irqCheck; split <;> rfl

@[simp] theorem Core.mvolL_irqCheck (k : Core) (a : Addr) : (k.irqCheck a).mvolL = k.mvolL := by
  unfold Core.irqCheck; split <;> rfl

@[simp] theorem Core.mvolR_irqCheck (k : Core) (a : Addr) : (k.irqCheck a).mvolR = k.mvolR := by
  unfold Core.irqCheck; split <;> rfl

@[simp] theorem Core.evolL_irqCheck (k : Core) (a : Addr) : (k.irqCheck a).evolL = k.evolL := by
  unfold Core.irqCheck; split <;> rfl

@[simp] theorem Core.evolR_irqCheck (k : Core) (a : Addr) : (k.irqCheck a).evolR = k.evolR := by
  unfold Core.irqCheck; split <;> rfl

@[simp] theorem Core.ivolL_irqCheck (k : Core) (a : Addr) : (k.irqCheck a).ivolL = k.ivolL := by
  unfold Core.irqCheck; split <;> rfl

@[simp] theorem Core.ivolR_irqCheck (k : Core) (a : Addr) : (k.irqCheck a).ivolR = k.ivolR := by
  unfold Core.irqCheck; split <;> rfl

@[simp] theorem Core.esa_irqCheck (k : Core) (a : Addr) : (k.irqCheck a).esa = k.esa := by
  unfold Core.irqCheck; split <;> rfl

@[simp] theorem Core.eea_irqCheck (k : Core) (a : Addr) : (k.irqCheck a).eea = k.eea := by
  unfold Core.irqCheck; split <;> rfl

@[simp] theorem Core.off_irqCheck (k : Core) (a : Addr) : (k.irqCheck a).off = k.off := by
  unfold Core.irqCheck; split <;> rfl

@[simp] theorem Core.coef_irqCheck (k : Core) (a : Addr) : (k.irqCheck a).coef = k.coef := by
  unfold Core.irqCheck; split <;> rfl

@[simp] theorem Core.revCursor_irqCheck (k : Core) (a : Addr) : (k.irqCheck a).revCursor = k.revCursor := by
  unfold Core.irqCheck; split <;> rfl

@[simp] theorem Core.revLast_irqCheck (k : Core) (a : Addr) : (k.irqCheck a).revLast = k.revLast := by
  unfold Core.irqCheck; split <;> rfl

@[simp] theorem Core.revHeld_irqCheck (k : Core) (a : Addr) : (k.irqCheck a).revHeld = k.revHeld := by
  unfold Core.irqCheck; split <;> rfl

@[simp] theorem Core.voice_irqCheck (k : Core) (a : Addr) (v : VoiceId) : (k.irqCheck a).voice v = k.voice v := by
  simp [Core.voice]

theorem Core.irqPending_irqCheck (k : Core) (a : Addr) :
    (k.irqCheck a).irqPending = (k.irqPending || (k.irqEn && k.irqAddr == a)) := by
  unfold Core.irqCheck; split
  · rename_i h; simp [h]
  · rename_i h; simp [Bool.eq_false_iff.mpr h]

@[simp] theorem State.tick_memWrite (cfg : Config) (s : State) (a : Addr) (d : Half) : (s.memWrite cfg a d).tick = s.tick := rfl

@[simp] theorem State.cmdErr_memWrite (cfg : Config) (s : State) (a : Addr) (d : Half) : (s.memWrite cfg a d).cmdErr = s.cmdErr := rfl

@[simp] theorem State.errCode_memWrite (cfg : Config) (s : State) (a : Addr) (d : Half) : (s.memWrite cfg a d).errCode = s.errCode := rfl

@[simp] theorem State.burstRemaining_memWrite (cfg : Config) (s : State) (a : Addr) (d : Half) : (s.memWrite cfg a d).burstRemaining = s.burstRemaining := rfl

@[simp] theorem State.burstCore_memWrite (cfg : Config) (s : State) (a : Addr) (d : Half) : (s.memWrite cfg a d).burstCore = s.burstCore := rfl

@[simp] theorem State.out_memWrite (cfg : Config) (s : State) (a : Addr) (d : Half) : (s.memWrite cfg a d).out = s.out := rfl

@[simp] theorem State.rspData_memWrite (cfg : Config) (s : State) (a : Addr) (d : Half) : (s.memWrite cfg a d).rspData = s.rspData := rfl

@[simp] theorem State.io_memWrite (cfg : Config) (s : State) (a : Addr) (d : Half) : (s.memWrite cfg a d).io = s.io := rfl

@[simp] theorem State.core0_memWrite (cfg : Config) (s : State) (a : Addr) (d : Half) : (s.memWrite cfg a d).core0 = s.core0 := rfl

@[simp] theorem State.core1_memWrite (cfg : Config) (s : State) (a : Addr) (d : Half) : (s.memWrite cfg a d).core1 = s.core1 := rfl

@[simp] theorem State.core_memWrite (cfg : Config) (s : State) (a : Addr) (d : Half) (c : CoreId) :
    (s.memWrite cfg a d).core c = s.core c := by cases c <;> rfl

@[simp] theorem State.mem_memWrite (cfg : Config) (s : State) (a : Addr) (d : Half) :
    (s.memWrite cfg a d).mem = Memory.setWord cfg s.mem a d := rfl

@[simp] theorem State.cache_memWrite (cfg : Config) (s : State) (a : Addr) (d : Half) :
    (s.memWrite cfg a d).cache = Cache.invalidateRange s.cache a.toNat (a.toNat + 1) := rfl

end Sys2Proof.Machine
end

