-- ==== Sys2Proof/Laws/Memory.lean ====
section
/-! SUPPORT. Sorted association lists, sample RAM and the ADPCM cache: what a read gives after a write, and that every operation
keeps the canonical form. -/

namespace Sys2Proof.Machine

variable {α : Type}

/-! ## Association lists -/

theorem lookupKey_insertKey (m : List (Nat × α)) (a b : Nat) (x : α) :
    lookupKey (insertKey m a x) b = if b = a then some x else lookupKey m b := by
  induction m with
  | nil => simp [insertKey, lookupKey]
  | cons p rest ih =>
    obtain ⟨k, y⟩ := p
    unfold insertKey
    split
    · simp [lookupKey]
    · split
      · rename_i h
        subst h
        by_cases hb : b = a <;> simp [lookupKey, hb]
      · rename_i h1 h2
        simp only [lookupKey, ih]
        by_cases hb : b = k
        · rw [if_pos hb, if_neg (by omega), if_pos hb]
        · rw [if_neg hb, if_neg hb]

theorem lookupKey_none_of_lt {m : List (Nat × α)} {a : Nat} (h : ∀ e ∈ m, a < e.1) : lookupKey m a = none := by
  induction m with
  | nil => rfl
  | cons p rest ih =>
    have := h p (List.mem_cons_self)
    rw [lookupKey, if_neg (by omega), ih fun e he => h e (List.mem_cons_of_mem _ he)]

theorem lookupKey_eraseKey {m : List (Nat × α)} (hm : KeysRising m) (a b : Nat) :
    lookupKey (eraseKey m a) b = if b = a then none else lookupKey m b := by
  induction m with
  | nil => simp [eraseKey, lookupKey]
  | cons p rest ih =>
    obtain ⟨k, y⟩ := p
    rw [KeysRising, List.pairwise_cons] at hm
    unfold eraseKey
    split
    · rename_i h
      subst h
      by_cases hb : b = a
      · subst hb; rw [if_pos rfl]; exact lookupKey_none_of_lt hm.1
      · rw [if_neg hb, lookupKey, if_neg hb]
    · rename_i h
      simp only [lookupKey, ih hm.2]
      by_cases hb : b = k
      · rw [if_pos hb, if_neg (by omega), if_pos hb]
      · rw [if_neg hb, if_neg hb]

theorem lookupKey_eraseKey_ne (m : List (Nat × α)) {a b : Nat} (h : b ≠ a) :
    lookupKey (eraseKey m a) b = lookupKey m b := by
  induction m with
  | nil => rfl
  | cons p rest ih =>
    obtain ⟨k, y⟩ := p
    unfold eraseKey
    split
    · rename_i hk; rw [lookupKey, if_neg (by omega)]
    · simp only [lookupKey, ih]

theorem mem_insertKey {m : List (Nat × α)} {a : Nat} {x : α} {e : Nat × α} (h : e ∈ insertKey m a x) :
    e = (a, x) ∨ e ∈ m := by
  induction m with
  | nil => exact .inl (by simpa [insertKey] using h)
  | cons p rest ih =>
    obtain ⟨k, y⟩ := p
    unfold insertKey at h
    split at h
    · simpa using h
    · split at h
      · rcases List.mem_cons.mp h with h | h
        · exact .inl h
        · exact .inr (List.mem_cons_of_mem _ h)
      · rcases List.mem_cons.mp h with h | h
        · exact .inr (h ▸ List.mem_cons_self)
        · exact (ih h).imp_right (List.mem_cons_of_mem _)

theorem mem_eraseKey {m : List (Nat × α)} {a : Nat} {e : Nat × α} (h : e ∈ eraseKey m a) : e ∈ m := by
  induction m with
  | nil => exact h
  | cons p rest ih =>
    unfold eraseKey at h
    split at h
    · exact List.mem_cons_of_mem _ h
    · rcases List.mem_cons.mp h with h | h
      · exact h ▸ List.mem_cons_self
      · exact List.mem_cons_of_mem _ (ih h)

theorem keysRising_insertKey {m : List (Nat × α)} (hm : KeysRising m) (a : Nat) (x : α) : KeysRising (insertKey m a x) := by
  induction m with
  | nil => simp [insertKey, KeysRising]
  | cons p rest ih =>
    obtain ⟨k, y⟩ := p
    have hm' := List.pairwise_cons.mp hm
    unfold insertKey
    split
    · rename_i h
      refine List.pairwise_cons.mpr ⟨fun e he => ?_, hm⟩
      rcases List.mem_cons.mp he with he | he
      · subst he; exact h
      · exact Nat.lt_trans h (hm'.1 e he)
    · split
      · rename_i h; subst h; exact List.pairwise_cons.mpr hm'
      · refine List.pairwise_cons.mpr ⟨fun e he => ?_, ih hm'.2⟩
        rcases mem_insertKey he with he | he
        · subst he; simp only; omega
        · exact hm'.1 e he

theorem keysRising_eraseKey {m : List (Nat × α)} (hm : KeysRising m) (a : Nat) : KeysRising (eraseKey m a) := by
  induction m with
  | nil => exact hm
  | cons p rest ih =>
    have hm' := List.pairwise_cons.mp hm
    unfold eraseKey
    split
    · exact hm'.2
    · exact List.pairwise_cons.mpr ⟨fun e he => hm'.1 e (mem_eraseKey he), ih hm'.2⟩

theorem mem_of_lookupKey {m : List (Nat × α)} {a : Nat} {x : α} (h : lookupKey m a = some x) : (a, x) ∈ m := by
  induction m with
  | nil => cases h
  | cons p rest ih =>
    obtain ⟨k, y⟩ := p
    rw [lookupKey] at h
    split at h
    · rename_i hk; cases h; subst hk; exact List.mem_cons_self
    · exact List.mem_cons_of_mem _ (ih h)

theorem lookupKey_of_mem {m : List (Nat × α)} (hm : KeysRising m) {a : Nat} {x : α} (h : (a, x) ∈ m) :
    lookupKey m a = some x := by
  induction m with
  | nil => cases h
  | cons p rest ih =>
    obtain ⟨k, y⟩ := p
    have hm' := List.pairwise_cons.mp hm
    rcases List.mem_cons.mp h with h | h
    · cases h; simp [lookupKey]
    · rw [lookupKey, if_neg (by have := hm'.1 _ h; simp only at this; omega), ih hm'.2 h]

theorem keysRising_filter {m : List (Nat × α)} (hm : KeysRising m) (p : Nat × α → Bool) : KeysRising (m.filter p) :=
  List.Pairwise.sublist (List.filter_sublist) hm

/-! ## Sample RAM -/

theorem halves_append (d : Half) : (d.extractLsb' 8 8 ++ d.extractLsb' 0 8 : BitVec (8 + 8)) = d := by
  apply BitVec.eq_of_getLsbD_eq
  intro i hi
  rw [BitVec.getLsbD_append, BitVec.getLsbD_extractLsb', BitVec.getLsbD_extractLsb']
  by_cases h : i < 8
  · simp [h]
  · rw [if_neg h, show 8 + (i - 8) = i by omega, show decide (i - 8 < 8) = true by simp; omega, Bool.true_and]

theorem Memory.byte_setByte {cfg : Config} {m : Memory} (hm : KeysRising m) (a b : Nat) (x : BitVec 8) :
    Memory.byte cfg (Memory.setByte cfg m a x) b = if b = a then x else Memory.byte cfg m b := by
  unfold Memory.setByte Memory.byte
  split
  · rename_i h
    rw [lookupKey_eraseKey hm]
    by_cases hb : b = a
    · subst hb; rw [if_pos rfl, if_pos rfl, h]; rfl
    · rw [if_neg hb, if_neg hb]
  · rw [lookupKey_insertKey]
    by_cases hb : b = a
    · rw [if_pos hb, if_pos hb]; rfl
    · rw [if_neg hb, if_neg hb]

/-- A write to one byte leaves every other byte alone, whatever the list. -/
theorem Memory.byte_setByte_ne {cfg : Config} (m : Memory) {a b : Nat} (x : BitVec 8) (h : b ≠ a) :
    Memory.byte cfg (Memory.setByte cfg m a x) b = Memory.byte cfg m b := by
  unfold Memory.setByte Memory.byte
  split
  · rw [lookupKey_eraseKey_ne m h]
  · rw [lookupKey_insertKey, if_neg h]

theorem Memory.keysRising_setByte {cfg : Config} {m : Memory} (hm : KeysRising m) (a : Nat) (x : BitVec 8) :
    KeysRising (Memory.setByte cfg m a x) := by
  unfold Memory.setByte
  split
  · exact keysRising_eraseKey hm a
  · exact keysRising_insertKey hm a x

theorem Memory.ne_of_mem_eraseKey {m : List (Nat × α)} (hm : KeysRising m) {a : Nat} {e : Nat × α}
    (h : e ∈ eraseKey m a) : e.1 ≠ a := by
  intro hea
  have h1 := lookupKey_of_mem (keysRising_eraseKey hm a) (show (e.1, e.2) ∈ eraseKey m a from h)
  rw [lookupKey_eraseKey hm, if_pos hea] at h1
  cases h1

/-- Writing a byte of sample RAM keeps the canonical form. -/
theorem Memory.wf_setByte {cfg : Config} {m : Memory} (hm : Memory.wf cfg m) {a : Nat} (ha : a < 0x200000) (x : BitVec 8) :
    Memory.wf cfg (Memory.setByte cfg m a x) := by
  refine ⟨Memory.keysRising_setByte hm.1 a x, fun e he => ?_⟩
  unfold Memory.setByte at he
  split at he
  · exact hm.2 e (mem_eraseKey he)
  · rename_i h
    rcases mem_insertKey he with he | he
    · subst he; exact ⟨ha, h⟩
    · exact hm.2 e he

/-- Storing a word keeps the canonical form. -/
theorem Memory.wf_setWord {cfg : Config} {m : Memory} (hm : Memory.wf cfg m) (a : Addr) (d : Half) :
    Memory.wf cfg (Memory.setWord cfg m a d) := by
  have ha := a.isLt
  exact Memory.wf_setByte (Memory.wf_setByte hm (by omega) _) (by omega) _

/-- A store to word `a` leaves every byte but 2a and 2a + 1 alone. -/
theorem Memory.byte_setWord_ne {cfg : Config} (m : Memory) (a : Addr) (d : Half) {b : Nat} (h1 : b ≠ 2 * a.toNat)
    (h2 : b ≠ 2 * a.toNat + 1) : Memory.byte cfg (Memory.setWord cfg m a d) b = Memory.byte cfg m b := by
  unfold Memory.setWord
  rw [Memory.byte_setByte_ne _ _ h2, Memory.byte_setByte_ne _ _ h1]

theorem Memory.byte_setWord_low {cfg : Config} {m : Memory} (hm : KeysRising m) (a : Addr) (d : Half) :
    Memory.byte cfg (Memory.setWord cfg m a d) (2 * a.toNat) = d.extractLsb' 0 8 := by
  unfold Memory.setWord
  rw [Memory.byte_setByte_ne _ _ (by omega), Memory.byte_setByte hm, if_pos rfl]

theorem Memory.byte_setWord_high {cfg : Config} {m : Memory} (hm : KeysRising m) (a : Addr) (d : Half) :
    Memory.byte cfg (Memory.setWord cfg m a d) (2 * a.toNat + 1) = d.extractLsb' 8 8 := by
  unfold Memory.setWord
  rw [Memory.byte_setByte (Memory.keysRising_setByte hm _ _), if_pos rfl]

/-- The read after the write of the same word. -/
theorem Memory.word_setWord_same {cfg : Config} {m : Memory} (hm : KeysRising m) (a : Addr) (d : Half) :
    Memory.word cfg (Memory.setWord cfg m a d) a = d := by
  unfold Memory.word
  rw [Memory.byte_setWord_low hm, Memory.byte_setWord_high hm]
  exact halves_append _

/-- A read of another word. -/
theorem Memory.word_setWord_ne {cfg : Config} (m : Memory) {a b : Addr} (d : Half) (h : b ≠ a) :
    Memory.word cfg (Memory.setWord cfg m a d) b = Memory.word cfg m b := by
  have hn : b.toNat ≠ a.toNat := fun hn => h (BitVec.eq_of_toNat_eq hn)
  unfold Memory.word
  rw [Memory.byte_setWord_ne _ _ _ (by omega) (by omega), Memory.byte_setWord_ne _ _ _ (by omega) (by omega)]

/-- A word nothing lists holds `mem_init` (00_scope.md R4). -/
theorem Memory.word_nil (cfg : Config) (a : Addr) : Memory.word cfg [] a = cfg.memInit a := by
  have h1 : (2 * a.toNat + 1) / 2 = a.toNat := by omega
  have h2 : 2 * a.toNat / 2 = a.toNat := by omega
  have h3 : (2 * a.toNat + 1) % 2 = 1 := by omega
  have h4 : 2 * a.toNat % 2 = 0 := by omega
  simp only [Memory.word, Memory.byte, lookupKey, Option.getD_none, initByte, h1, h2, h3, h4, BitVec.ofNat_toNat,
    BitVec.setWidth_eq]
  exact halves_append _

theorem Memory.wf_nil (cfg : Config) : Memory.wf cfg [] := ⟨List.Pairwise.nil, fun _ h => by cases h⟩

/-- `MemWrite` then `MemRead` (20_memory.md R61, R62). -/
theorem State.memRead_memWrite {cfg : Config} {s : State} (hm : KeysRising s.mem) (a b : Addr) (d : Half) :
    (s.memWrite cfg a d).memRead cfg b = if b = a then d else s.memRead cfg b := by
  unfold State.memRead
  rw [State.mem_memWrite]
  by_cases h : b = a
  · subst h; rw [if_pos rfl, Memory.word_setWord_same hm]
  · rw [if_neg h, Memory.word_setWord_ne _ _ h]

/-- `MemWrite` leaves every byte but those of its word alone. -/
theorem State.readByte_memWrite_ne (s : State) (a : Addr) (d : Half) {b : Nat} (h1 : b ≠ 2 * a.toNat)
    (h2 : b ≠ 2 * a.toNat + 1) : (s.memWrite config a d).readByte b = s.readByte b :=
  Memory.byte_setWord_ne s.mem a d h1 h2

/-! ## The ADPCM cache -/

theorem Cache.entry_fill (k : Cache) (i j : Nat) (x : Block) : (k.fill i x).entry j = if j = i then some x else k.entry j :=
  lookupKey_insertKey k i j x

theorem Cache.mem_invalidateRange {k : Cache} {lo hi : Nat} {e : Nat × Block} :
    e ∈ k.invalidateRange lo hi ↔ e ∈ k ∧ ¬(lo < hi ∧ lo / 8 ≤ e.1 ∧ e.1 ≤ (hi - 1) / 8) := by
  unfold Cache.invalidateRange
  split
  · rename_i h
    simp only [List.mem_filter, Bool.not_eq_true', Bool.and_eq_false_iff, decide_eq_false_iff_not]
    constructor
    · rintro ⟨h1, h2⟩; exact ⟨h1, fun h3 => by rcases h2 with h2 | h2 <;> omega⟩
    · rintro ⟨h1, h2⟩; exact ⟨h1, by omega⟩
  · rename_i h
    exact ⟨fun h1 => ⟨h1, fun h3 => h h3.1⟩, fun h1 => h1.1⟩

theorem lookupKey_filter {m : List (Nat × α)} (p : Nat × α → Bool) (q : Nat → Bool) (hp : ∀ e, p e = q e.1) (a : Nat) :
    lookupKey (m.filter p) a = if q a then lookupKey m a else none := by
  induction m with
  | nil => simp [lookupKey]
  | cons e rest ih =>
    obtain ⟨k, x⟩ := e
    by_cases ha : a = k
    · subst ha
      by_cases hq : q a
      · rw [List.filter_cons_of_pos (by rw [hp]; exact hq), lookupKey, if_pos rfl, if_pos hq, lookupKey, if_pos rfl]
      · rw [List.filter_cons_of_neg (by rw [hp]; exact hq), ih, if_neg hq, if_neg hq]
    · by_cases hq : q k
      · rw [List.filter_cons_of_pos (by rw [hp]; exact hq), lookupKey, if_neg ha, ih, lookupKey, if_neg ha]
      · rw [List.filter_cons_of_neg (by rw [hp]; exact hq), ih, lookupKey, if_neg ha]

/-- `invalidate_range` (40_adpcm_cache.md R127): the entries of the blocks the range meets go, every other stays. -/
theorem Cache.entry_invalidateRange (k : Cache) (lo hi i : Nat) :
    (k.invalidateRange lo hi).entry i = if lo < hi ∧ lo / 8 ≤ i ∧ i ≤ (hi - 1) / 8 then none else k.entry i := by
  unfold Cache.invalidateRange Cache.entry
  by_cases h : lo < hi
  · rw [if_pos h, lookupKey_filter _ (fun i => !(decide (lo / 8 ≤ i) && decide (i ≤ (hi - 1) / 8))) (fun _ => rfl)]
    by_cases h2 : lo / 8 ≤ i ∧ i ≤ (hi - 1) / 8
    · simp [h, h2]
    · have hq : (!(decide (lo / 8 ≤ i) && decide (i ≤ (hi - 1) / 8))) = true := by
        simp only [Bool.not_eq_true', Bool.and_eq_false_iff, decide_eq_false_iff_not]
        omega
      simp only [hq, if_true, h, true_and, if_neg h2]
  · rw [if_neg h, if_neg (fun h3 => h h3.1)]

/-- One word's write clears the validity bit of the word's block and no other (20_memory.md R62). -/
theorem Cache.entry_invalidate_word (k : Cache) (a : Nat) (i : Nat) :
    (k.invalidateRange a (a + 1)).entry i = if i = a / 8 then none else k.entry i := by
  rw [Cache.entry_invalidateRange]
  by_cases h : i = a / 8
  · rw [if_pos h, if_pos (by omega)]
  · rw [if_neg h, if_neg (by omega)]

theorem Cache.keysRising_invalidateRange {k : Cache} (hk : KeysRising k) (lo hi : Nat) :
    KeysRising (k.invalidateRange lo hi) := by
  unfold Cache.invalidateRange
  split
  · exact keysRising_filter hk _
  · exact hk

/-- The words a block's decode reads: the eight of the block (40_adpcm_cache.md R125). -/
theorem decodeBlock_congr {cfg : Config} {m m' : Memory} {base : Addr}
    (h : ∀ i < 8, Memory.word cfg m (base + BitVec.ofNat 20 i) = Memory.word cfg m' (base + BitVec.ofNat 20 i))
    (p1 p2 : Half) : decodeBlock cfg m base p1 p2 = decodeBlock cfg m' base p1 p2 := by
  have h0 : Memory.word cfg m base = Memory.word cfg m' base := by simpa using h 0 (by decide)
  have hn : blockNibbles cfg m base = blockNibbles cfg m' base := by
    unfold blockNibbles
    apply List.flatMap_congr
    intro i hi
    rw [h (i + 1) (by have := List.mem_range.mp hi; omega)]
  simp only [decodeBlock, blockHeader, h0, hn]

end Sys2Proof.Machine
end

