-- ==== Sys2Proof/Laws/Ops.lean ====
section
/-! SUPPORT. What each shared operation of a register write can do, said once: the operand forms as arithmetic, the writes of voice
and core registers, key events, the host's memory write, the illegal-command latch, the resets. -/

namespace Sys2Proof.Machine

/-! ## Operand forms -/

theorem toNat_append_parts {a b : Nat} (x : BitVec a) (y : BitVec b) : (x ++ y).toNat = x.toNat * 2 ^ b + y.toNat := by
  rw [BitVec.toNat_append, Nat.shiftLeft_eq, ← Nat.shiftLeft_eq, Nat.shiftLeft_add_eq_or_of_lt y.isLt]

theorem withAddrHi_eq (a : Addr) (d : Half) : withAddrHi a d = addrWithHi a d := by
  apply BitVec.eq_of_toNat_eq
  have := a.isLt
  have := d.isLt
  simp only [withAddrHi, addrWithHi, toNat_append_parts, BitVec.extractLsb'_toNat, BitVec.toNat_ofNat, Nat.shiftRight_zero]
  omega

theorem withAddrLo_eq (a : Addr) (d : Half) : withAddrLo a d = addrWithLo a d := by
  apply BitVec.eq_of_toNat_eq
  have := a.isLt
  have := d.isLt
  simp only [withAddrLo, addrWithLo, toNat_append_parts, BitVec.extractLsb'_toNat, BitVec.toNat_ofNat, Nat.shiftRight_eq_div_pow]
  omega

theorem withMaskHi_eq (m : VoiceMask) (d : Half) : withMaskHi m d = maskWithHi m d := by
  apply BitVec.eq_of_toNat_eq
  have := m.isLt
  have := d.isLt
  simp only [withMaskHi, maskWithHi, toNat_append_parts, BitVec.extractLsb'_toNat, BitVec.toNat_ofNat, Nat.shiftRight_zero]
  omega

theorem withMaskLo_eq (m : VoiceMask) (d : Half) : withMaskLo m d = maskWithLo m d := by
  apply BitVec.eq_of_toNat_eq
  have := m.isLt
  have := d.isLt
  simp only [withMaskLo, maskWithLo, toNat_append_parts, BitVec.extractLsb'_toNat, BitVec.toNat_ofNat, Nat.shiftRight_eq_div_pow]
  omega

theorem bit15_iff (d : Half) : d.getLsbD 15 = true ↔ ¬ d.toNat < 0x8000 := by
  have := d.isLt
  rw [BitVec.getLsbD, Nat.testBit, Nat.shiftRight_eq_div_pow]
  simp only [Nat.one_and_eq_mod_two, bne_iff_ne, ne_eq]
  omega

theorem fixedVolume_toInt (d : Half) : (fixedVolume d).toInt = sext15 d * 2 := by
  have := d.isLt
  have h : (fixedVolume d).toNat = d.toNat % 32768 * 2 := by
    simp only [fixedVolume, toNat_append_parts, BitVec.extractLsb'_toNat, Nat.shiftRight_zero]
    simp
  rw [BitVec.toInt_eq_toNat_cond, h, sext15]
  split <;> split <;> omega

/-- A write to a slide-format register does what 45_commands.md R256 says. -/
theorem slideWritten_writeSlide (d : Half) (x : Slide) : SlideWritten d x (writeSlide d x) := by
  unfold SlideWritten writeSlide
  by_cases h : d.toNat < 0x8000
  · rw [if_pos h, if_neg (fun hb => (bit15_iff d).mp hb h)]
    exact ⟨rfl, rfl, rfl, rfl, rfl, fixedVolume_toInt d⟩
  · rw [if_neg h, if_pos ((bit15_iff d).mpr h)]
    exact ⟨rfl, rfl, rfl, rfl, by simp, rfl⟩

theorem voiceIndex_toNat (v : VoiceId) (k : BitVec 4) : (voiceIndex v k).toNat = v.val * 16 + k.toNat := by
  have := v.isLt
  simp only [voiceIndex, toNat_append_parts, BitVec.toNat_ofNat]
  omega

/-! ## Register writes -/

/-- `WREG` of a writable voice register. -/
theorem voiceWrite_wregVoice (s : State) (c : CoreId) (v : VoiceId) (k : BitVec 4) (d : Half) (f : Voice → Voice) :
    VoiceWrite c v k.toNat d (f (s.voice c v)) s (s.wregVoice c v k d f) := by
  refine ⟨fun r => ?_, ?_, fun w hw => ?_, ?_, fun b => ?_, ?_, ?_, ?_⟩
  · rw [← voiceIndex_toNat, ← State.shadowAt_setShadow]
    cases c <;> rfl
  · simp [State.wregVoice]
  · simp [State.wregVoice, State.voice_modVoice, hw]
  · simp [State.wregVoice]
  · simp [State.wregVoice, State.readByte]
  · simp [State.wregVoice]
  · simp only [State.wregVoice, State.core_modVoice_other, State.setShadow, State.core_modCore_other]
  · simp [SameGlobals, State.wregVoice]

/-- `WREG` of a writable core register whose effect is on neither the shadow nor the voices. -/
theorem controlWrite_wregCore (s : State) (c : CoreId) (i : BitVec 9) (d : Half) (f : Core → Core)
    (hs : ∀ k, (f k).shadow = k.shadow) (hv : ∀ k, (f k).voices = k.voices) (hc : ∀ k, (f k).control = (f k.control).control) :
    ControlWrite c i.toNat d (f (s.core c)) s (s.wregCore c i d f) := by
  refine ⟨fun r => ?_, fun w => ?_, ?_, fun b => ?_, ?_, ?_, ?_⟩
  · rw [← State.shadowAt_setShadow]
    simp only [State.shadowAt, State.wregCore, State.core_modCore_same, hs]
  · simp only [State.voice, State.wregCore, State.core_modCore_same, Core.voice, hv]
    exact State.voice_setShadow s c c i d w
  · rw [State.wregCore, State.core_modCore_same, hc, State.control_setShadow, ← hc]
  · simp [State.wregCore, State.readByte]
  · simp [State.wregCore]
  · simp only [State.wregCore, State.core_modCore_other, State.setShadow]
  · simp [SameGlobals, State.wregCore]

/-- The core a `WREG` of a core register leaves. -/
theorem State.core_wregCore (s : State) (c d : CoreId) (i : BitVec 9) (x : Half) (f : Core → Core) :
    (s.wregCore c i x f).core d =
      if d = c then f { s.core c with shadow := (s.core c).shadow.set i.toNat x } else s.core d := by
  cases c <;> cases d <;> rfl

/-! ## Key events (45_commands.md R271 to R274) -/

theorem mem_voiceIds (v : VoiceId) : v ∈ voiceIds := List.mem_finRange v

theorem voiceIds_nodup : voiceIds.Nodup := List.nodup_finRange 24

theorem loMask_bit (d : Half) (v : VoiceId) : maskBit (loMask d) v = selectedLo d v := by
  revert v; intro v
  simp only [maskBit, loMask, withMaskLo, selectedLo, BitVec.getLsbD_append, BitVec.getLsbD_extractLsb']
  by_cases h : v.val < 16 <;> simp [h]

theorem hiMask_bit (d : Half) (v : VoiceId) : maskBit (hiMask d) v = selectedHi d v := by
  have := v.isLt
  simp only [maskBit, hiMask, withMaskHi, selectedHi, BitVec.getLsbD_append, BitVec.getLsbD_extractLsb']
  by_cases h : v.val < 16
  · simp [h, show ¬ 16 ≤ v.val by omega]
  · simp [h, show 16 ≤ v.val by omega, show v.val - 16 < 8 by omega]

/-- A fold over distinct voices, each of whose events touches its own voice only. -/
theorem foldl_voices {k : Core} {g : Core → VoiceId → Core} {sel : VoiceId → Bool} {f : Voice → Voice} {vs : List VoiceId}
    (hn : vs.Nodup) (hg : ∀ k v w, (g k v).voice w = if w = v then f (k.voice v) else k.voice w) (w : VoiceId) :
    (vs.foldl (fun k v => if sel v then g k v else k) k).voice w
      = if w ∈ vs ∧ sel w then f (k.voice w) else k.voice w := by
  induction vs generalizing k with
  | nil => simp
  | cons v rest ih =>
    obtain ⟨h1, h2⟩ := List.nodup_cons.mp hn
    rw [List.foldl_cons, ih h2]
    by_cases hv : w = v
    · subst hv
      rw [if_neg (fun h => h1 h.1)]
      by_cases hs : sel w
      · simp [hs, hg]
      · simp [hs]
    · by_cases hs : sel v
      · simp [hs, hg, hv]
      · simp [hs, hv]

theorem foldl_endx {k : Core} {sel : VoiceId → Bool} {g : Core → VoiceId → Core} {vs : List VoiceId}
    (hg : ∀ k v, (g k v).endx = k.endx &&& ~~~ voiceBit v) (w : VoiceId) :
    maskBit (vs.foldl (fun k v => if sel v then g k v else k) k).endx w
      = (maskBit k.endx w && !(decide (w ∈ vs) && sel w)) := by
  have hw := w.isLt
  induction vs generalizing k with
  | nil => simp
  | cons v rest ih =>
    rw [List.foldl_cons, ih]
    by_cases hs : sel v
    · have hb : maskBit (g k v).endx w = (maskBit k.endx w && !decide (w = v)) := by
        simp only [hg, maskBit, voiceBit, BitVec.getLsbD_and, BitVec.getLsbD_not, BitVec.getLsbD_shiftLeft, hw]
        by_cases hv : w = v
        · subst hv; simp
        · have : w.val ≠ v.val := fun h => hv (Fin.ext h)
          simp only [hv]
          by_cases hlt : w.val < v.val
          · simp [hlt]
          · simp [hlt, show w.val - v.val ≠ 0 by omega]
      simp only [hs, if_true, hb]
      by_cases hv : w = v
      · subst hv; simp [hs]
      · simp [hv]
    · by_cases hv : w = v
      · subst hv; simp [hs]
      · simp [hs, hv]

theorem foldl_keeps {α β : Type} {p : Core → α} {g : Core → β → Core} (hg : ∀ k v, p (g k v) = p k) (vs : List β) (k : Core) :
    p (vs.foldl g k) = p k := by
  induction vs generalizing k with
  | nil => rfl
  | cons v rest ih => rw [List.foldl_cons, ih, hg]

theorem Core.voice_keyOn (cfg : Config) (k : Core) (v w : VoiceId) :
    (k.keyOn cfg v).voice w = if w = v then Voice.keyOn cfg (k.voice v) else k.voice w :=
  Core.voice_modVoice k v w (Voice.keyOn cfg)

theorem Core.voice_keyOff (k : Core) (v w : VoiceId) :
    (k.keyOff v).voice w = if w = v then Voice.keyOff (k.voice v) else k.voice w :=
  Core.voice_modVoice k v w Voice.keyOff

/-- Key-on restarts the voice as 41_voice_pipeline.md R152 says. -/
theorem keyedOn_keyOn (cfg : Config) (x : Voice) : KeyedOn cfg x (Voice.keyOn cfg x) := by
  refine ⟨rfl, ?_, rfl, rfl, rfl, rfl, rfl, rfl, rfl, rfl, fun i => ?_, rfl, rfl, rfl, rfl, rfl, rfl, rfl, rfl⟩
  · have := cfg.adsrSeed.isLt
    simp only [Voice.keyOn, BitVec.toNat_setWidth]
    omega
  · simp [Voice.keyOn, zeroBlock]

theorem keyedOff_keyOff (x : Voice) : KeyedOff x (Voice.keyOff x) := rfl

/-- What a key event over a mask does to a core. -/
theorem Core.forMask_spec (k : Core) (m : VoiceMask) {g : Core → VoiceId → Core} {f : Voice → Voice}
    (hg : ∀ k v w, (g k v).voice w = if w = v then f (k.voice v) else k.voice w) (w : VoiceId) :
    (k.forMask m g).voice w = if maskBit m w then f (k.voice w) else k.voice w := by
  rw [Core.forMask, foldl_voices voiceIds_nodup hg]
  simp [mem_voiceIds]

theorem Core.forMask_keeps {α : Type} (p : Core → α) (k : Core) (m : VoiceMask) {g : Core → VoiceId → Core}
    (hg : ∀ k v, p (g k v) = p k) : p (k.forMask m g) = p k :=
  foldl_keeps (fun k v => by split <;> [exact hg k v; rfl]) voiceIds k

theorem Core.endx_forMask_keyOn (cfg : Config) (k : Core) (m : VoiceMask) (w : VoiceId) :
    maskBit (k.forMask m (Core.keyOn cfg)).endx w = (maskBit k.endx w && !maskBit m w) := by
  rw [Core.forMask, foldl_endx fun _ _ => rfl]
  simp [mem_voiceIds]

/-! ## Stopping a voice (41_voice_pipeline.md R149) -/

/-- `stop_voice` on the voices: the one voice goes Off, level and output 0. -/
theorem State.voice_stopVoice (s : State) (c d : CoreId) (v w : VoiceId) :
    (s.stopVoice c v).voice d w =
      if d = c ∧ w = v then
        { s.voice c v with adsr := { (s.voice c v).adsr with phase := .off, value := 0#32 }, lastOutput := 0#32 }
      else s.voice d w := by
  have h : ∀ (k : Core) (m : VoiceMask), ({ k with endx := m } : Core).voice w = k.voice w := fun _ _ => rfl
  rw [State.voice, State.stopVoice, State.core_modCore]
  by_cases hd : d = c
  · subst hd
    rw [if_pos rfl, h, Core.voice_modVoice]
    simp only [true_and, State.voice]
  · rw [if_neg hd, if_neg fun x => hd x.1]; rfl

/-- A mask with one voice's bit set. -/
theorem maskBit_or_voiceBit (m : VoiceMask) (v w : VoiceId) : maskBit (m ||| voiceBit v) w = (maskBit m w || w == v) := by
  have hw := w.isLt
  simp only [maskBit, voiceBit, BitVec.getLsbD_or, BitVec.getLsbD_shiftLeft, hw]
  by_cases hv : w = v
  · subst hv; simp
  · have : w.val ≠ v.val := fun h => hv (Fin.ext h)
    by_cases hlt : w.val < v.val
    · simp [hlt, hv]
    · simp [hlt, hv, show w.val - v.val ≠ 0 by omega]

/-- `stop_voice` on the flags: the voice's ENDX bit is set, no other bit of either core changes. -/
theorem State.endx_stopVoice (s : State) (c d : CoreId) (v w : VoiceId) :
    maskBit ((s.stopVoice c v).core d).endx w = (maskBit (s.core d).endx w || (d == c && w == v)) := by
  rw [State.stopVoice, State.core_modCore]
  split
  · rename_i h; subst h; rw [beq_self_eq_true, Bool.true_and]; exact maskBit_or_voiceBit _ _ _
  · rename_i h; rw [beq_false_of_ne h, Bool.false_and, Bool.or_false]

/-- `stop_voice` on the rest of the cores: of the control fields only `endx` may change. -/
theorem State.control_stopVoice (s : State) (c d : CoreId) (v : VoiceId) :
    ((s.stopVoice c v).core d).control = { (s.core d).control with endx := ((s.stopVoice c v).core d).endx } := by
  rw [State.stopVoice, State.core_modCore]
  split
  · rename_i h; subst h; rfl
  · rfl

@[simp] theorem State.shadow_stopVoice (s : State) (c d : CoreId) (v : VoiceId) :
    ((s.stopVoice c v).core d).shadow = (s.core d).shadow := by
  rw [State.stopVoice, State.core_modCore]
  split
  · rename_i h; subst h; rfl
  · rfl

/-! ## The host's memory write, the latch, the resets -/

/-- `host_mem_write` (45_commands.md R281) core by core: the match check of both, then the advance of `tda` on `c`. -/
theorem State.core_hostMemWrite (cfg : Config) (s : State) (c d : CoreId) (x : Half) :
    (s.hostMemWrite cfg c x).core d =
      if d = c then { (s.core d).irqCheck (s.core c).tda with tda := (s.core d).tda + 1 }
      else (s.core d).irqCheck (s.core c).tda := by
  simp only [State.hostMemWrite, State.core_modCore, State.core_memWrite, State.core_irqCheck, Core.tda_irqCheck]
  by_cases h : d = c
  · subst h; rw [if_pos rfl]
  · rw [if_neg h, if_neg h]

@[simp] theorem State.mem_hostMemWrite (cfg : Config) (s : State) (c : CoreId) (x : Half) :
    (s.hostMemWrite cfg c x).mem = Memory.setWord cfg s.mem (s.core c).tda x := by simp [State.hostMemWrite]

@[simp] theorem State.cache_hostMemWrite (cfg : Config) (s : State) (c : CoreId) (x : Half) :
    (s.hostMemWrite cfg c x).cache = Cache.invalidateRange s.cache (s.core c).tda.toNat ((s.core c).tda.toNat + 1) := by
  simp [State.hostMemWrite]

theorem State.globals_hostMemWrite (cfg : Config) (s : State) (c : CoreId) (x : Half) : SameGlobals s (s.hostMemWrite cfg c x) := by
  simp [SameGlobals, State.hostMemWrite]

/-- `host_mem_write` in the terms of Safety.lean, on a memory in canonical form. -/
theorem hostWrite_hostMemWrite {s : State} (hm : Memory.wf config s.mem) (c : CoreId) (d : Half) :
    HostWrite c d s (s.hostMemWrite config c d) := by
  refine ⟨fun b h1 h2 => ?_, ?_, ?_, fun i => ?_, ?_, ?_, fun k => ?_, fun k => ?_⟩
  · rw [State.readByte, State.mem_hostMemWrite]; exact Memory.byte_setWord_ne _ _ _ h1 h2
  · rw [State.readByte, State.mem_hostMemWrite]; exact Memory.byte_setWord_low hm.1 _ _
  · rw [State.readByte, State.mem_hostMemWrite]; exact Memory.byte_setWord_high hm.1 _ _
  · rw [State.cache_hostMemWrite]; exact Cache.entry_invalidate_word _ _ _
  · rw [State.core_hostMemWrite, if_pos rfl]; apply BitVec.eq_of_toNat_eq; simp
  · rw [State.core_hostMemWrite, if_neg (otherCore_ne c)]; simp
  · rw [State.core_hostMemWrite]; split <;> simp [Core.irqPending_irqCheck]
  · rw [State.core_hostMemWrite]
    split <;> (unfold Core.irqCheck; split <;> rfl)

/-- A host memory write clears no flag. -/
theorem flagsOnlySet_hostMemWrite (cfg : Config) (s : State) (c k : CoreId) (d : Half) :
    FlagsOnlySet (s.core k) ((s.hostMemWrite cfg c d).core k) := by
  rw [State.core_hostMemWrite]
  split <;> exact ⟨fun v h => by simpa using h, fun h => by simp [Core.irqPending_irqCheck, h]⟩

theorem flagErr_cmdErr (e : DecodeError) (s : State) : (flagErr e s).cmdErr = true := rfl

theorem flagErr_errCode (e : DecodeError) (s : State) : (flagErr e s).errCode = if s.errCode = 0#2 then e.code else s.errCode := rfl

end Sys2Proof.Machine
end

