-- ==== Sys2Proof/Laws/Decode.lean ====
section
/-! SUPPORT. The fields of an encoded word, the register lookup in numbers, and the decoder stage by stage. -/

namespace Sys2Proof

open Sys2Proof.Machine

/-! ## The fields of `cmdWord` (30_encoding.md R92) -/

theorem cmdWord_toNat (op : BitVec 4) (c : CoreId) (reg : BitVec 9) (d : Half) :
    (cmdWord op c reg d).toNat = op.toNat * 2 ^ 28 + (coreBit c).toNat * 2 ^ 25 + reg.toNat * 2 ^ 16 + d.toNat := by
  simp only [cmdWord, toNat_append_parts, BitVec.toNat_ofNat]
  omega

@[simp] theorem opField_cmdWord (op : BitVec 4) (c : CoreId) (reg : BitVec 9) (d : Half) : opField (cmdWord op c reg d) = op := by
  apply BitVec.eq_of_toNat_eq
  have := op.isLt; have := (coreBit c).isLt; have := reg.isLt; have := d.isLt
  rw [opField, BitVec.extractLsb'_toNat, cmdWord_toNat, Nat.shiftRight_eq_div_pow]
  omega

@[simp] theorem zField_cmdWord (op : BitVec 4) (c : CoreId) (reg : BitVec 9) (d : Half) : zField (cmdWord op c reg d) = 0#2 := by
  apply BitVec.eq_of_toNat_eq
  have := op.isLt; have := (coreBit c).isLt; have := reg.isLt; have := d.isLt
  rw [zField, BitVec.extractLsb'_toNat, cmdWord_toNat, Nat.shiftRight_eq_div_pow, BitVec.toNat_ofNat]
  omega

@[simp] theorem regField_cmdWord (op : BitVec 4) (c : CoreId) (reg : BitVec 9) (d : Half) :
    regField (cmdWord op c reg d) = reg := by
  apply BitVec.eq_of_toNat_eq
  have := op.isLt; have := (coreBit c).isLt; have := reg.isLt; have := d.isLt
  rw [regField, BitVec.extractLsb'_toNat, cmdWord_toNat, Nat.shiftRight_eq_div_pow]
  omega

@[simp] theorem dataField_cmdWord (op : BitVec 4) (c : CoreId) (reg : BitVec 9) (d : Half) :
    dataField (cmdWord op c reg d) = d := by
  apply BitVec.eq_of_toNat_eq
  have := op.isLt; have := (coreBit c).isLt; have := reg.isLt; have := d.isLt
  rw [dataField, BitVec.extractLsb'_toNat, cmdWord_toNat, Nat.shiftRight_eq_div_pow]
  omega

@[simp] theorem coreField_cmdWord (op : BitVec 4) (c : CoreId) (reg : BitVec 9) (d : Half) :
    coreField (cmdWord op c reg d) = c := by
  have h1 := op.isLt; have h2 := (coreBit c).isLt; have h3 := reg.isLt; have h4 := d.isLt
  have h : (cmdWord op c reg d).getLsbD 25 = decide ((coreBit c).toNat = 1) := by
    rw [BitVec.getLsbD, Nat.testBit, cmdWord_toNat, Nat.shiftRight_eq_div_pow, Bool.eq_iff_iff]
    simp only [Nat.one_and_eq_mod_two, bne_iff_ne, ne_eq, decide_eq_true_eq]
    omega
  rw [coreField, h]
  cases c <;> rfl

/-- A word is its fields (30_encoding.md R92). -/
theorem word_toNat (w : CmdWord) :
    w.toNat = (opField w).toNat * 2 ^ 28 + (zField w).toNat * 2 ^ 26 + (coreBit (coreField w)).toNat * 2 ^ 25
      + (regField w).toNat * 2 ^ 16 + (dataField w).toNat := by
  have h := w.isLt
  have hc : (coreBit (coreField w)).toNat = w.toNat / 2 ^ 25 % 2 := by
    rw [coreField, BitVec.getLsbD, Nat.testBit, Nat.shiftRight_eq_div_pow, Nat.one_and_eq_mod_two]
    rcases Nat.mod_two_eq_zero_or_one (w.toNat / 2 ^ 25) with h | h <;> rw [h] <;> rfl
  rw [hc]
  simp only [opField, zField, regField, dataField, BitVec.extractLsb'_toNat, Nat.shiftRight_eq_div_pow]
  omega

/-- A word whose reserved bits are 0 is the word of its fields. -/
theorem eq_cmdWord {w : CmdWord} (hz : zField w = 0#2) : w = cmdWord (opField w) (coreField w) (regField w) (dataField w) := by
  apply BitVec.eq_of_toNat_eq
  rw [cmdWord_toNat, word_toNat w, hz]
  simp

/-! ## Register selection -/

/-- The index of each register, the inverse of `regOfIndex` (10_state.md R42, R47, R51, R52). -/
def indexOfReg : Reg → BitVec 9
  | .voice v r => voiceIndex v (BitVec.ofNat 4 (voiceRegs.findIdx (· = r)))
  | .core (.offHi k) => BitVec.ofNat 9 (0x1C0 + 2 * (offIndex k).val)
  | .core (.offLo k) => BitVec.ofNat 9 (0x1C1 + 2 * (offIndex k).val)
  | .core (.coef k) => BitVec.ofNat 9 (0x1F0 + (coefIndex k).val)
  | .core r => BitVec.ofNat 9 (0x180 + globalRegs.findIdx (· = r))

/-- A lookup that succeeds gives the register of that index. -/
theorem indexOfReg_regOfIndex : ∀ reg : Fin 512, ∀ r ∈ regOfIndex (BitVec.ofFin reg), indexOfReg r = BitVec.ofFin reg := by
  decide +kernel

theorem regOfIndex_indexOfReg_voice : ∀ v : VoiceId, ∀ r ∈ voiceRegs, regOfIndex (indexOfReg (.voice v r)) = some (.voice v r) := by
  decide +kernel

/-- The reserved indices are those the lookup answers nothing for. -/
theorem regOfIndex_none_iff : ∀ reg : Fin 512, (regOfIndex (BitVec.ofFin reg) = none ↔ reservedIndex (BitVec.ofFin reg) = true) := by
  decide +kernel

theorem regOfIndex_eq_none_iff (reg : BitVec 9) : regOfIndex reg = none ↔ reservedIndex reg = true :=
  regOfIndex_none_iff reg.toFin

theorem indexOfReg_eq {reg : BitVec 9} {r : Reg} (h : regOfIndex reg = some r) : indexOfReg r = reg :=
  indexOfReg_regOfIndex reg.toFin r h

theorem reservedIndex_iff_fin : ∀ reg : Fin 512, (reservedIndex (BitVec.ofFin reg) = true ↔
    (reg.val < 0x180 ∧ (reg.val % 16 = 14 ∨ reg.val % 16 = 15)) ∨ (0x1A6 ≤ reg.val ∧ reg.val ≤ 0x1BF) ∨ 0x1FA ≤ reg.val) := by
  decide +kernel

/-- `reservedIndex` is the list of 10_state.md R53. -/
theorem reservedIndex_iff (reg : BitVec 9) : reservedIndex reg = true ↔ ReservedNumber reg.toNat := by
  have hlt := reg.isLt
  refine (reservedIndex_iff_fin reg.toFin).trans ?_
  change (reg.toNat < 0x180 ∧ (reg.toNat % 16 = 14 ∨ reg.toNat % 16 = 15)) ∨ _ ∨ _ ↔ _
  unfold ReservedNumber
  constructor
  · rintro (⟨h1, h2⟩ | h | h)
    · exact .inl ⟨reg.toNat / 16, by omega, by omega⟩
    · exact .inr (.inl h)
    · exact .inr (.inr ⟨h, by omega⟩)
  · rintro (⟨v, hv, h⟩ | h | h)
    · exact .inl (by omega)
    · exact .inr (.inl h)
    · exact .inr (.inr h.1)

/-! ## The decoder, stage by stage (30_encoding.md R95) -/

theorem decode_wregWord (c : CoreId) (reg : BitVec 9) (d : Half) : decode (wregWord c reg d) =
    match regOfIndex reg with
    | none => .error .reservedRegister
    | some (.voice v r) => .ok (wregVoiceInstr r c v d)
    | some (.core r) => .ok (wregCoreInstr r c d) := by
  simp only [decode, wregWord, decodeWreg, opField_cmdWord, zField_cmdWord, regField_cmdWord, coreField_cmdWord,
    dataField_cmdWord]
  rcases regOfIndex reg with _ | ⟨⟨v, r⟩ | r⟩ <;> rfl

theorem decode_rregWord (c : CoreId) (reg : BitVec 9) (d : Half) : decode (cmdWord 2#4 c reg d) =
    match regOfIndex reg with
    | none => .error .reservedRegister
    | some _ => .ok (.rreg c reg) := by
  simp only [decode, decodeRreg, opField_cmdWord, zField_cmdWord, regField_cmdWord, coreField_cmdWord]
  rcases regOfIndex reg with _ | r <;> rfl

theorem decode_dmawWord (c : CoreId) (n : Half) : decode (cmdWord 3#4 c 0#9 n) = .ok (.dmaw c n) := by
  simp [decode, decodeDmaw]

theorem decodeRreg_ok {w : CmdWord} {i : Instr} (h : decodeRreg w = .ok i) :
    i = .rreg (coreField w) (regField w) ∧ reservedIndex (regField w) = false := by
  unfold decodeRreg at h
  split at h
  · cases h
  · rename_i r hr
    cases h
    refine ⟨rfl, ?_⟩
    by_contra hb
    rw [(regOfIndex_eq_none_iff _).mpr (by simpa using hb)] at hr
    cases hr

theorem decodeDmaw_ok {w : CmdWord} {i : Instr} (h : decodeDmaw w = .ok i) :
    i = .dmaw (coreField w) (dataField w) ∧ regField w = 0#9 := by
  unfold decodeDmaw at h
  split at h
  · cases h; exact ⟨rfl, ‹_›⟩
  · cases h

/-- The low half of a word in numbers. -/
theorem dataField_eq (w : CmdWord) : dataField w = BitVec.ofNat 16 w.toNat := by
  apply BitVec.eq_of_toNat_eq
  simp only [dataField, BitVec.extractLsb'_toNat, BitVec.toNat_ofNat, Nat.shiftRight_zero]

/-- The `WREG` of a voice register: its encoding, all of whose bits are used. -/
theorem encode_wregVoiceInstr (r : VoiceReg) (c : CoreId) (v : VoiceId) (d : Half) :
    encode (wregVoiceInstr r c v d) = wregWord c (indexOfReg (.voice v r)) d ∧ (wregVoiceInstr r c v d).wellFormed = true
      ∧ usedBits (wregVoiceInstr r c v d) = 0xFFFFFFFF#32 := by
  cases r <;> exact ⟨rfl, rfl, rfl⟩

/-- The `WREG` of a core register: its encoding, all of whose bits are used. -/
theorem encode_wregCoreInstr (r : CoreReg) (c : CoreId) (d : Half) :
    encode (wregCoreInstr r c d) = wregWord c (indexOfReg (.core r)) d ∧ (wregCoreInstr r c d).wellFormed = true
      ∧ usedBits (wregCoreInstr r c d) = 0xFFFFFFFF#32 := by
  cases r <;> first | exact ⟨rfl, rfl, rfl⟩ | (rename_i k; cases k <;> exact ⟨rfl, rfl, rfl⟩)

end Sys2Proof
end

