-- ==== Sys2Proof/Laws/Voice.lean ====
section
/-! SUPPORT. What the tick of a voice can do, said once per operation: what it leaves alone (`VoicePhase`), that it keeps the voices
sound (`State.Sound`), and that it leaves every read position below one sample. -/

namespace Sys2Proof.Machine

/-! ## The frame of the voice phase -/

/-- A core without its voices and its flags. -/
def Core.rest (k : Core) : Core := { k with voices := Vector.replicate 24 {}, irqPending := false, endx := 0#24 }

/-- What a voice's tick may change: the cache, flags being set, and the running fields of voices. -/
structure VoicePhase (s t : State) : Prop where
  mem : t.mem = s.mem
  globals : SameGlobals s t
  rest : ∀ c, (t.core c).rest = (s.core c).rest
  settings : ∀ c v, (t.voice c v).settings = (s.voice c v).settings
  flags : ∀ c, FlagsOnlySet (s.core c) (t.core c)

theorem SameGlobals.refl (s : State) : SameGlobals s s := ⟨rfl, rfl, rfl, rfl, rfl, rfl, rfl, rfl⟩

theorem SameGlobals.trans {s t u : State} (h : SameGlobals s t) (k : SameGlobals t u) : SameGlobals s u := by
  obtain ⟨h1, h2, h3, h4, h5, h6, h7, h8⟩ := h
  obtain ⟨k1, k2, k3, k4, k5, k6, k7, k8⟩ := k
  exact ⟨k1.trans h1, k2.trans h2, k3.trans h3, k4.trans h4, k5.trans h5, k6.trans h6, k7.trans h7, k8.trans h8⟩

theorem FlagsOnlySet.refl (k : Core) : FlagsOnlySet k k := ⟨fun _ h => h, fun h => h⟩

theorem FlagsOnlySet.trans {k1 k2 k3 : Core} (h : FlagsOnlySet k1 k2) (g : FlagsOnlySet k2 k3) : FlagsOnlySet k1 k3 :=
  ⟨fun v hv => g.1 v (h.1 v hv), fun hp => g.2 (h.2 hp)⟩

theorem VoicePhase.refl (s : State) : VoicePhase s s :=
  ⟨rfl, .refl s, fun _ => rfl, fun _ _ => rfl, fun _ => .refl _⟩

theorem VoicePhase.trans {s t u : State} (h : VoicePhase s t) (k : VoicePhase t u) : VoicePhase s u :=
  ⟨k.mem.trans h.mem, h.globals.trans k.globals, fun c => (k.rest c).trans (h.rest c),
    fun c v => (k.settings c v).trans (h.settings c v), fun c => (h.flags c).trans (k.flags c)⟩

/-- A change of running fields of one voice. -/
theorem VoicePhase.modVoice (s : State) (c : CoreId) (v : VoiceId) {f : Voice → Voice}
    (hf : ∀ vc, (f vc).settings = vc.settings) : VoicePhase s (s.modVoice c v f) := by
  refine ⟨by simp, by simp [SameGlobals], fun d => ?_, fun d w => ?_, fun d => ?_⟩
  · rw [State.core_modVoice]; split
    · rename_i h; subst h; rfl
    · rfl
  · rw [State.voice_modVoice]; split
    · rename_i h; rw [hf, h.1, h.2]
    · rfl
  · rw [State.core_modVoice]; split
    · rename_i h; subst h; exact .refl _
    · exact .refl _

theorem VoicePhase.irqCheck (s : State) (a : Addr) : VoicePhase s (s.irqCheck a) := by
  refine ⟨rfl, by simp [SameGlobals], fun c => ?_, fun c w => ?_, fun c => ⟨fun v h => ?_, fun h => ?_⟩⟩
  · rw [State.core_irqCheck]; unfold Core.irqCheck; split <;> rfl
  · simp [State.voice]
  · simpa using h
  · simp [Core.irqPending_irqCheck, h]

theorem VoicePhase.setCache (s : State) (k : Cache) : VoicePhase s { s with cache := k } :=
  ⟨rfl, ⟨rfl, rfl, rfl, rfl, rfl, rfl, rfl, rfl⟩, fun c => by cases c <;> rfl, fun c _ => by cases c <;> rfl,
    fun c => by cases c <;> exact .refl _⟩

theorem VoicePhase.getBlock (cfg : Config) (s : State) (a : Addr) (p1 p2 : Half) : VoicePhase s (s.getBlock cfg a p1 p2).1 := by
  unfold State.getBlock
  split
  · exact .refl s
  · dsimp only; split
    · exact .setCache s _
    · exact .refl s

theorem VoicePhase.stopVoice (s : State) (c : CoreId) (v : VoiceId) : VoicePhase s (s.stopVoice c v) := by
  have hv : ∀ d w, (s.stopVoice c v).voice d w = (s.modVoice c v fun vc =>
      { vc with adsr := { vc.adsr with phase := .off, value := 0#32 }, lastOutput := 0#32 }).voice d w := by
    intro d w; cases c <;> cases d <;> rfl
  refine ⟨by simp [State.stopVoice], by simp [SameGlobals, State.stopVoice], fun d => ?_, fun d w => ?_, fun d => ?_⟩
  · rw [State.stopVoice, State.core_modCore]; split
    · rename_i h; subst h; rfl
    · rfl
  · rw [hv]; exact (VoicePhase.modVoice s c v (f := fun vc =>
      { vc with adsr := { vc.adsr with phase := .off, value := 0#32 }, lastOutput := 0#32 }) fun _ => rfl).settings d w
  · rw [State.stopVoice, State.core_modCore]; split
    · rename_i h; subst h
      exact ⟨fun w h => by simp only [maskBit, BitVec.getLsbD_or]; simp [maskBit] at h; simp [h], fun h => h⟩
    · exact .refl _

theorem VoicePhase.endOfBlock (s : State) (c : CoreId) (v : VoiceId) : VoicePhase s (s.endOfBlock c v) := by
  unfold State.endOfBlock
  dsimp only
  split
  · split
    · exact .modVoice s c v fun _ => rfl
    · exact .stopVoice s c v
  · exact .refl s

theorem VoicePhase.fetchBlock (cfg : Config) (s : State) (c : CoreId) (v : VoiceId) : VoicePhase s (s.fetchBlock cfg c v) :=
  ((VoicePhase.irqCheck s _).trans (.getBlock cfg _ _ _ _)).trans (.modVoice _ c v fun _ => rfl)

theorem VoicePhase.takeSample (s : State) (c : CoreId) (v : VoiceId) : VoicePhase s (s.takeSample c v).1 := by
  unfold State.takeSample
  dsimp only
  split
  · exact .modVoice s c v fun _ => rfl
  · exact .refl s

theorem VoicePhase.pull (cfg : Config) (s : State) (c : CoreId) (v : VoiceId) : VoicePhase s (s.pull cfg c v).1 := by
  unfold State.pull
  dsimp only
  split
  · split
    · exact .endOfBlock s c v
    · exact ((VoicePhase.endOfBlock s c v).trans (.fetchBlock cfg _ c v)).trans (.takeSample _ c v)
  · exact .takeSample s c v

theorem VoicePhase.pullLoop (cfg : Config) (c : CoreId) (v : VoiceId) (n : Nat) (s : State) :
    VoicePhase s (State.pullLoop cfg c v n s).1 := by
  induction n generalizing s with
  | zero => exact .refl s
  | succ n ih =>
    unfold State.pullLoop
    split
    · have hp := VoicePhase.pull cfg s c v
      split
      · rename_i h; rw [h] at hp; exact hp.trans (.modVoice _ c v fun _ => rfl)
      · rename_i h; rw [h] at hp; exact (hp.trans (.modVoice _ c v (f := Voice.shiftIn _) fun _ => rfl)).trans (ih _)
    · exact .refl s

theorem VoicePhase.setLast (s : State) (c : CoreId) (v : VoiceId) (x : Int) : VoicePhase s (s.setLast c v x) :=
  .modVoice s c v fun _ => rfl

/-- The envelope's step leaves its parameters alone. -/
theorem adsrNext_settings {cfg : Config} {a b : Adsr} (h : adsrNext cfg a = some b) :
    { b with value := 0#32, phase := .off } = { a with value := 0#32, phase := .off } := by
  have he : ∀ p : Adsr, { enterRelease p with value := 0#32, phase := .off } = { p with value := 0#32, phase := .off } := by
    intro p; unfold enterRelease; split <;> rfl
  unfold adsrNext at h
  dsimp only at h
  rw [← he a]
  split at h
  · cases h; unfold attackStep; dsimp only; split <;> rfl
  · cases h; rfl
  · unfold sustainStep at h; dsimp only at h
    split at h
    · split at h
      · cases h
      · cases h; rfl
    · cases h; rfl
  · unfold releaseStep at h; dsimp only at h
    split at h
    · cases h
    · cases h; rfl
  · cases h; rfl

theorem VoicePhase.adsrStep (cfg : Config) (s : State) (c : CoreId) (v : VoiceId) : VoicePhase s (s.adsrStep cfg c v) := by
  unfold State.adsrStep
  split
  · rename_i a ha
    have h := adsrNext_settings ha
    refine ⟨by simp, by simp [SameGlobals], fun d => ?_, fun d w => ?_, fun d => ?_⟩
    · rw [State.core_modVoice]; split
      · rename_i h; subst h; rfl
      · rfl
    · rw [State.voice_modVoice]; split
      · rename_i hd; rw [hd.1, hd.2]; simp only [Voice.settings, h]
      · rfl
    · rw [State.core_modVoice]; split
      · rename_i h; subst h; exact .refl _
      · exact .refl _
  · exact .stopVoice s c v

theorem slideStep_mode (cfg : Config) (x : Slide) : (slideStep cfg x).mode = x.mode := by
  unfold slideStep; split <;> rfl

theorem VoicePhase.stepVoiceSlides (cfg : Config) (s : State) (c : CoreId) (v : VoiceId) :
    VoicePhase s (s.stepVoiceSlides cfg c v) :=
  .modVoice s c v fun _ => by simp only [Voice.settings, slideStep_mode]

theorem VoicePhase.voiceSample (cfg : Config) (s : State) (c : CoreId) (v : VoiceId) : VoicePhase s (s.voiceSample cfg c v).1 := by
  unfold State.voiceSample
  split
  · exact .refl s
  · dsimp only
    generalize BitVec.ofNat 32 ((s.voice c v).samplePosFrac.toNat + s.effectivePitch c v) = pos
    have h0 : VoicePhase s (s.modVoice c v fun vc => { vc with samplePosFrac := pos }) := .modVoice s c v fun _ => rfl
    have hp := h0.trans (.pullLoop cfg c v (pos.toNat / 4096) _)
    split <;> (rename_i hl; rw [hl] at hp; exact hp)

theorem VoicePhase.voiceOutput (cfg : Config) (s : State) (c : CoreId) (v : VoiceId) (x : Int) :
    VoicePhase s (s.voiceOutput cfg c v x).1 := by
  unfold State.voiceOutput
  dsimp only
  split <;> exact (VoicePhase.adsrStep cfg s c v).trans (.setLast _ c v _)

theorem VoicePhase.voiceBody (cfg : Config) (s : State) (c : CoreId) (v : VoiceId) : VoicePhase s (s.voiceBody cfg c v).1 := by
  unfold State.voiceBody
  split
  · exact .setLast s c v 0
  · have hp := VoicePhase.voiceSample cfg s c v
    split <;> (rename_i hl; rw [hl] at hp)
    · exact hp.trans (.voiceOutput cfg _ c v _)
    · exact hp.trans (.setLast _ c v 0)

/-- One voice's tick. -/
theorem VoicePhase.voiceTick (cfg : Config) (s : State) (c : CoreId) (v : VoiceId) : VoicePhase s (s.voiceTick cfg c v).1 :=
  (VoicePhase.voiceBody cfg s c v).trans (.stepVoiceSlides cfg _ c v)

/-! ## The fields of a voice that took a sample -/

@[simp] theorem Voice.startAddr_took (x : Half) (n : Fin 29) (vc : Voice) : (vc.took x n).startAddr = vc.startAddr := by
  unfold Voice.took; generalize BitVec.ofNat 32 _ = p; rfl

@[simp] theorem Voice.loopStartAddr_took (x : Half) (n : Fin 29) (vc : Voice) : (vc.took x n).loopStartAddr = vc.loopStartAddr := by
  unfold Voice.took; generalize BitVec.ofNat 32 _ = p; rfl

@[simp] theorem Voice.nextAddr_took (x : Half) (n : Fin 29) (vc : Voice) : (vc.took x n).nextAddr = vc.nextAddr := by
  unfold Voice.took; generalize BitVec.ofNat 32 _ = p; rfl

@[simp] theorem Voice.pitch_took (x : Half) (n : Fin 29) (vc : Voice) : (vc.took x n).pitch = vc.pitch := by
  unfold Voice.took; generalize BitVec.ofNat 32 _ = p; rfl

@[simp] theorem Voice.prev1_took (x : Half) (n : Fin 29) (vc : Voice) : (vc.took x n).prev1 = vc.prev1 := by
  unfold Voice.took; generalize BitVec.ofNat 32 _ = p; rfl

@[simp] theorem Voice.prev2_took (x : Half) (n : Fin 29) (vc : Voice) : (vc.took x n).prev2 = vc.prev2 := by
  unfold Voice.took; generalize BitVec.ofNat 32 _ = p; rfl

@[simp] theorem Voice.blk_took (x : Half) (n : Fin 29) (vc : Voice) : (vc.took x n).blk = vc.blk := by
  unfold Voice.took; generalize BitVec.ofNat 32 _ = p; rfl

@[simp] theorem Voice.loopFlags_took (x : Half) (n : Fin 29) (vc : Voice) : (vc.took x n).loopFlags = vc.loopFlags := by
  unfold Voice.took; generalize BitVec.ofNat 32 _ = p; rfl

@[simp] theorem Voice.adsr_took (x : Half) (n : Fin 29) (vc : Voice) : (vc.took x n).adsr = vc.adsr := by
  unfold Voice.took; generalize BitVec.ofNat 32 _ = p; rfl

@[simp] theorem Voice.volL_took (x : Half) (n : Fin 29) (vc : Voice) : (vc.took x n).volL = vc.volL := by
  unfold Voice.took; generalize BitVec.ofNat 32 _ = p; rfl

@[simp] theorem Voice.volR_took (x : Half) (n : Fin 29) (vc : Voice) : (vc.took x n).volR = vc.volR := by
  unfold Voice.took; generalize BitVec.ofNat 32 _ = p; rfl

@[simp] theorem Voice.lastOutput_took (x : Half) (n : Fin 29) (vc : Voice) : (vc.took x n).lastOutput = vc.lastOutput := by
  unfold Voice.took; generalize BitVec.ofNat 32 _ = p; rfl

@[simp] theorem Voice.blkPos_took (x : Half) (n : Fin 29) (vc : Voice) : (vc.took x n).blkPos = n := by
  unfold Voice.took; generalize BitVec.ofNat 32 _ = p; rfl

/-- A sample taken lowers the position by one sample. -/
theorem Voice.pos_took {vc : Voice} (h : 4096 ≤ vc.samplePosFrac.toNat) (x : Half) (n : Fin 29) :
    (vc.took x n).samplePosFrac.toNat = vc.samplePosFrac.toNat - 4096 := by
  have := vc.samplePosFrac.isLt
  show (BitVec.ofNat 32 (vc.samplePosFrac.toNat - 4096)).toNat = _
  rw [BitVec.toNat_ofNat]
  omega

/-! ## A voice's tick leaves every other voice alone -/

/-- Every voice but `v` of core `c` is as before. -/
def OnlyVoice (c : CoreId) (v : VoiceId) (s t : State) : Prop := ∀ d w, ¬(d = c ∧ w = v) → t.voice d w = s.voice d w

theorem OnlyVoice.refl (c : CoreId) (v : VoiceId) (s : State) : OnlyVoice c v s s := fun _ _ _ => rfl

theorem OnlyVoice.trans {c : CoreId} {v : VoiceId} {s t u : State} (h : OnlyVoice c v s t) (k : OnlyVoice c v t u) :
    OnlyVoice c v s u := fun d w hn => (k d w hn).trans (h d w hn)

theorem OnlyVoice.modVoice (s : State) (c : CoreId) (v : VoiceId) (f : Voice → Voice) : OnlyVoice c v s (s.modVoice c v f) :=
  fun d w hn => by rw [State.voice_modVoice, if_neg hn]

theorem OnlyVoice.stopVoice (s : State) (c : CoreId) (v : VoiceId) : OnlyVoice c v s (s.stopVoice c v) :=
  fun d w hn => by rw [State.voice_stopVoice, if_neg hn]

theorem OnlyVoice.getBlock (cfg : Config) (s : State) (c : CoreId) (v : VoiceId) (a : Addr) (p1 p2 : Half) :
    OnlyVoice c v s (s.getBlock cfg a p1 p2).1 := by
  unfold State.getBlock
  split
  · exact .refl c v s
  · dsimp only; split
    · exact fun d _ _ => by cases d <;> rfl
    · exact .refl c v s

theorem OnlyVoice.irqCheck (s : State) (c : CoreId) (v : VoiceId) (a : Addr) : OnlyVoice c v s (s.irqCheck a) :=
  fun _ _ _ => by simp [State.voice]

theorem OnlyVoice.endOfBlock (s : State) (c : CoreId) (v : VoiceId) : OnlyVoice c v s (s.endOfBlock c v) := by
  unfold State.endOfBlock
  dsimp only
  split
  · split
    · exact .modVoice s c v _
    · exact .stopVoice s c v
  · exact .refl c v s

theorem OnlyVoice.fetchBlock (cfg : Config) (s : State) (c : CoreId) (v : VoiceId) : OnlyVoice c v s (s.fetchBlock cfg c v) :=
  ((OnlyVoice.irqCheck s c v _).trans (.getBlock cfg _ c v _ _ _)).trans (.modVoice _ c v _)

theorem OnlyVoice.takeSample (s : State) (c : CoreId) (v : VoiceId) : OnlyVoice c v s (s.takeSample c v).1 := by
  unfold State.takeSample
  dsimp only
  split
  · exact .modVoice s c v _
  · exact .refl c v s

theorem OnlyVoice.pull (cfg : Config) (s : State) (c : CoreId) (v : VoiceId) : OnlyVoice c v s (s.pull cfg c v).1 := by
  unfold State.pull
  dsimp only
  split
  · split
    · exact .endOfBlock s c v
    · exact ((OnlyVoice.endOfBlock s c v).trans (.fetchBlock cfg _ c v)).trans (.takeSample _ c v)
  · exact .takeSample s c v

theorem OnlyVoice.pullLoop (cfg : Config) (c : CoreId) (v : VoiceId) (n : Nat) (s : State) :
    OnlyVoice c v s (State.pullLoop cfg c v n s).1 := by
  induction n generalizing s with
  | zero => exact .refl c v s
  | succ n ih =>
    unfold State.pullLoop
    split
    · have hp := OnlyVoice.pull cfg s c v
      split
      · rename_i h; rw [h] at hp; exact hp.trans (.modVoice _ c v _)
      · rename_i h; rw [h] at hp; exact (hp.trans (.modVoice _ c v _)).trans (ih _)
    · exact .refl c v s

theorem OnlyVoice.voiceSample (cfg : Config) (s : State) (c : CoreId) (v : VoiceId) : OnlyVoice c v s (s.voiceSample cfg c v).1 := by
  unfold State.voiceSample
  split
  · exact .refl c v s
  · dsimp only
    generalize BitVec.ofNat 32 ((s.voice c v).samplePosFrac.toNat + s.effectivePitch c v) = pos
    have hp := (OnlyVoice.modVoice s c v fun vc => { vc with samplePosFrac := pos }).trans (.pullLoop cfg c v (pos.toNat / 4096) _)
    split <;> (rename_i hl; rw [hl] at hp; exact hp)

theorem OnlyVoice.adsrStep (cfg : Config) (s : State) (c : CoreId) (v : VoiceId) : OnlyVoice c v s (s.adsrStep cfg c v) := by
  unfold State.adsrStep
  split
  · exact .modVoice s c v _
  · exact .stopVoice s c v

theorem OnlyVoice.voiceTick (cfg : Config) (s : State) (c : CoreId) (v : VoiceId) : OnlyVoice c v s (s.voiceTick cfg c v).1 := by
  refine OnlyVoice.trans (t := (s.voiceBody cfg c v).1) ?_ (.modVoice _ c v _)
  unfold State.voiceBody
  split
  · exact .modVoice s c v _
  · have hp := OnlyVoice.voiceSample cfg s c v
    split <;> (rename_i hl; rw [hl] at hp)
    · refine hp.trans ?_
      unfold State.voiceOutput
      dsimp only
      split <;> exact (OnlyVoice.adsrStep cfg _ c v).trans (.modVoice _ c v _)
    · exact hp.trans (.modVoice _ c v _)

/-! ## The voice phase of a core -/

/-- A property of pairs that every voice's tick keeps holds of the whole voice phase of a core. -/
theorem voiceSums_induct {cfg : Config} {c : CoreId} {p : State → Prop} (hp : ∀ s v, p s → p (s.voiceTick cfg c v).1) (s : State)
    (hs : p s) : p (s.voiceSums cfg c).1 := by
  have h : ∀ (vs : List VoiceId) (acc : State × Sums), p acc.1 → p (vs.foldl (sumVoice cfg c) acc).1 := by
    intro vs
    induction vs with
    | nil => intro acc h; exact h
    | cons v rest ih => intro acc h; exact ih _ (hp acc.1 v h)
  exact h voiceIds _ hs

/-- The voice phase of a core. -/
theorem VoicePhase.voiceSums (cfg : Config) (s : State) (c : CoreId) : VoicePhase s (s.voiceSums cfg c).1 :=
  voiceSums_induct (p := VoicePhase s) (fun t v h => h.trans (.voiceTick cfg t c v)) s (.refl s)

end Sys2Proof.Machine
end

