-- ==== Sys2Proof/Laws/Sound.lean ====
section
/-! SUPPORT. The voice phase keeps the invariants of Safety.lean: each operation keeps the state sound (`State.Sound`, the invariant
without the bound on read positions), and the tick of a voice ends with its position below one sample. -/

namespace Sys2Proof.Machine

/-- `Voice.Ok` without the bound on the read position. -/
structure Voice.Sound (vc : Voice) : Prop where
  value_nonneg : 0 ≤ vc.adsr.value.toInt
  off_silent : vc.adsr.phase = .off → vc.adsr.value = 0#32 ∧ vc.lastOutput = 0#32
  hist : InI16 vc.hist.h0 ∧ InI16 vc.hist.h1 ∧ InI16 vc.hist.h2 ∧ InI16 vc.hist.h3

theorem Voice.Ok.sound {vc : Voice} (h : vc.Ok) : vc.Sound := ⟨h.1, h.2, h.4⟩

theorem Voice.Sound.ok {vc : Voice} (h : vc.Sound) (hp : vc.samplePosFrac.toNat < 4096) : vc.Ok := ⟨h.1, h.2, hp, h.3⟩

/-- `State.Inv` without the bound on the read positions. -/
structure State.Sound (cfg : Config) (s : State) : Prop where
  mem : Memory.wf cfg s.mem
  cache : CacheOk cfg s.mem s.cache
  voices : ∀ c v, (s.voice c v).Sound
  outPos_lt : ∀ c, (s.core c).outPos < cfg.outRingLen
  shadow : ∀ c, ∀ r : BitVec 9, neverShadowed r = true → s.shadowAt c r = 0#16

/-- The read position of a voice. -/
def State.pos (s : State) (c : CoreId) (v : VoiceId) : BitVec 32 := (s.voice c v).samplePosFrac

/-- Every read position is below one sample (10_state.md R38 d). -/
def PosOk (s : State) : Prop := ∀ c v, (s.pos c v).toNat < 4096

theorem State.inv_iff {cfg : Config} {s : State} : s.Inv cfg ↔ s.Sound cfg ∧ PosOk s :=
  ⟨fun h => ⟨⟨h.1, h.2, fun c v => ((h.3 c).1 v).sound, fun c => (h.3 c).2, fun c => (h.3 c).3⟩, fun c v => ((h.3 c).1 v).pos_lt⟩,
    fun h => ⟨h.1.1, h.1.2, fun c => ⟨fun v => (h.1.3 c v).ok (h.2 c v), h.1.4 c, h.1.5 c⟩⟩⟩

/-- A change of one voice that keeps it sound. -/
theorem State.Sound.modVoice {cfg : Config} {s : State} (h : s.Sound cfg) (c : CoreId) (v : VoiceId) {f : Voice → Voice}
    (hf : (f (s.voice c v)).Sound) : (s.modVoice c v f).Sound cfg := by
  refine ⟨by simpa using h.mem, by simpa using h.cache, fun d w => ?_, fun d => ?_, fun d r hr => ?_⟩
  · rw [State.voice_modVoice]; split
    · exact hf
    · exact h.voices d w
  · rw [State.core_modVoice]; split
    · rename_i hd; subst hd; exact h.outPos_lt d
    · exact h.outPos_lt d
  · rw [State.shadowAt, State.core_modVoice]; split
    · rename_i hd; subst hd; exact h.shadow d r hr
    · exact h.shadow d r hr

/-- A change of a core's other fields. -/
theorem State.Sound.modCore {cfg : Config} {s : State} (h : s.Sound cfg) (c : CoreId) {f : Core → Core}
    (hv : (f (s.core c)).voices = (s.core c).voices) (hs : (f (s.core c)).shadow = (s.core c).shadow)
    (ho : (f (s.core c)).outPos < cfg.outRingLen) : (s.modCore c f).Sound cfg := by
  refine ⟨by simpa using h.mem, by simpa using h.cache, fun d w => ?_, fun d => ?_, fun d r hr => ?_⟩
  · rw [State.voice, State.core_modCore]; split
    · rename_i hd; subst hd; rw [Core.voice, hv]; exact h.voices d w
    · exact h.voices d w
  · rw [State.core_modCore]; split
    · exact ho
    · exact h.outPos_lt d
  · rw [State.shadowAt, State.core_modCore]; split
    · rename_i hd; subst hd; simp only [hs]; exact h.shadow d r hr
    · exact h.shadow d r hr

theorem State.Sound.irqCheck {cfg : Config} {s : State} (h : s.Sound cfg) (a : Addr) : (s.irqCheck a).Sound cfg :=
  ⟨h.mem, h.cache, fun c v => by simpa [State.voice] using h.voices c v, fun c => by simpa using h.outPos_lt c,
    fun c r hr => by simpa [State.shadowAt] using h.shadow c r hr⟩

/-- Other memory and another cache that agrees with it. -/
theorem State.Sound.congr {cfg : Config} {s t : State} (h : s.Sound cfg) (h0 : t.core0 = s.core0) (h1 : t.core1 = s.core1)
    (hm : Memory.wf cfg t.mem) (hk : CacheOk cfg t.mem t.cache) : t.Sound cfg := by
  have hc : ∀ c, t.core c = s.core c := fun c => by cases c <;> assumption
  exact ⟨hm, hk, fun c v => by rw [State.voice, hc]; exact h.voices c v, fun c => by rw [hc]; exact h.outPos_lt c,
    fun c r hr => by simp only [State.shadowAt, hc]; exact h.shadow c r hr⟩

/-! ## Blocks -/

theorem blockBase_toNat (a : Addr) : (blockBase a).toNat = a.toNat / 8 * 8 := by
  have := a.isLt
  simp only [blockBase, toNat_append_parts, BitVec.extractLsb'_toNat, Nat.shiftRight_eq_div_pow, BitVec.toNat_ofNat]
  omega

theorem blockBase_eq_index (a : Addr) : blockBase a = BitVec.ofNat 20 (blockIndex a * 8) := by
  apply BitVec.eq_of_toNat_eq
  have := a.isLt
  rw [blockBase_toNat, blockIndex, BitVec.toNat_ofNat]
  omega

theorem blockIndex_blockBase (a : Addr) : blockIndex (blockBase a) = blockIndex a := by
  rw [blockIndex, blockBase_toNat, blockIndex]; omega

theorem blockBase_blockBase (a : Addr) : blockBase (blockBase a) = blockBase a := by
  rw [blockBase_eq_index, blockIndex_blockBase, ← blockBase_eq_index]

/-- A fill with the decode of the current memory keeps the cache in agreement (40_adpcm_cache.md R121). -/
theorem CacheOk.fill {cfg : Config} {m : Memory} {k : Cache} (h : CacheOk cfg m k) {a : Addr} (ha : cfg.dynLine ≤ a.toNat)
    (p1 p2 : Half) : CacheOk cfg m (k.fill (blockIndex a) (decodeBlock cfg m (blockBase a) p1 p2)) := by
  have hlt := a.isLt
  have hd := cfg.dynLine_mod
  refine ⟨keysRising_insertKey h.rising _ _, fun e he => ?_, fun e he => ?_⟩
  · rcases mem_insertKey he with he | he
    · subst he; simp only [blockIndex]; omega
    · exact h.range e he
  · rcases mem_insertKey he with he | he
    · subst he; exact ⟨p1, p2, by rw [blockBase_eq_index]⟩
    · exact h.coherent e he

theorem State.Sound.getBlock {cfg : Config} {s : State} (h : s.Sound cfg) (a : Addr) (p1 p2 : Half) :
    (s.getBlock cfg a p1 p2).1.Sound cfg := by
  unfold State.getBlock
  split
  · exact h
  · dsimp only; split
    · rename_i ha; exact h.congr rfl rfl h.mem (h.cache.fill ha p1 p2)
    · exact h

/-- A store to sample RAM keeps the cache in agreement: the one block it touches is dropped (20_memory.md R62). -/
theorem CacheOk.memWrite {cfg : Config} {m : Memory} {k : Cache} (h : CacheOk cfg m k) (a : Addr) (d : Half) :
    CacheOk cfg (Memory.setWord cfg m a d) (k.invalidateRange a.toNat (a.toNat + 1)) := by
  have hlt := a.isLt
  refine ⟨Cache.keysRising_invalidateRange h.rising _ _, fun e he => h.range e (Cache.mem_invalidateRange.mp he).1, fun e he => ?_⟩
  obtain ⟨he, hn⟩ := Cache.mem_invalidateRange.mp he
  obtain ⟨p1, p2, hp⟩ := h.coherent e he
  have hr := h.range e he
  refine ⟨p1, p2, hp.trans (decodeBlock_congr (fun i hi => ?_) p1 p2)⟩
  refine (Memory.word_setWord_ne m d fun hb => hn ?_).symm
  have hbn := congrArg BitVec.toNat hb
  simp only [BitVec.toNat_add, BitVec.toNat_ofNat] at hbn
  omega

theorem State.Sound.memWrite {cfg : Config} {s : State} (h : s.Sound cfg) (a : Addr) (d : Half) : (s.memWrite cfg a d).Sound cfg :=
  h.congr rfl rfl (Memory.wf_setWord h.mem a d) (h.cache.memWrite a d)

/-! ## The parts of a voice's tick -/

theorem State.Sound.stopVoice {cfg : Config} {s : State} (h : s.Sound cfg) (c : CoreId) (v : VoiceId) :
    (s.stopVoice c v).Sound cfg := by
  have h1 := h.modVoice c v (f := fun vc => { vc with adsr := { vc.adsr with phase := .off, value := 0#32 }, lastOutput := 0#32 })
    ⟨by simp, fun _ => ⟨rfl, rfl⟩, (h.voices c v).hist⟩
  have h2 := h1.modCore c (f := fun k => { k with endx := (s.core c).endx ||| voiceBit v }) rfl rfl (h1.outPos_lt c)
  have he : s.stopVoice c v = (s.modVoice c v fun vc =>
      { vc with adsr := { vc.adsr with phase := .off, value := 0#32 }, lastOutput := 0#32 }).modCore c
        fun k => { k with endx := (s.core c).endx ||| voiceBit v } := by cases c <;> rfl
  rw [he]; exact h2

theorem State.Sound.endOfBlock {cfg : Config} {s : State} (h : s.Sound cfg) (c : CoreId) (v : VoiceId) :
    (s.endOfBlock c v).Sound cfg := by
  unfold State.endOfBlock
  dsimp only
  split
  · split
    · have hv := h.voices c v; exact h.modVoice c v ⟨hv.1, hv.2, hv.3⟩
    · exact h.stopVoice c v
  · exact h

theorem State.Sound.fetchBlock {cfg : Config} {s : State} (h : s.Sound cfg) (c : CoreId) (v : VoiceId) :
    (s.fetchBlock cfg c v).Sound cfg := by
  unfold State.fetchBlock
  dsimp only
  have h1 := (h.irqCheck (blockBase (s.voice c v).nextAddr)).getBlock (blockBase (s.voice c v).nextAddr) (s.voice c v).prev1
    (s.voice c v).prev2
  have hv := h1.voices c v
  exact h1.modVoice c v ⟨hv.1, hv.2, hv.3⟩

theorem State.Sound.takeSample {cfg : Config} {s : State} (h : s.Sound cfg) (c : CoreId) (v : VoiceId) :
    (s.takeSample c v).1.Sound cfg := by
  unfold State.takeSample
  dsimp only
  split
  · have hv := h.voices c v; exact h.modVoice c v ⟨hv.1, hv.2, hv.3⟩
  · exact h

theorem State.Sound.pull {cfg : Config} {s : State} (h : s.Sound cfg) (c : CoreId) (v : VoiceId) :
    (s.pull cfg c v).1.Sound cfg := by
  unfold State.pull
  dsimp only
  split
  · split
    · exact h.endOfBlock c v
    · exact ((h.endOfBlock c v).fetchBlock c v).takeSample c v
  · exact h.takeSample c v

theorem inI16_signExtend (x : Half) : InI16 (x.signExtend 32) := by
  have h1 := BitVec.toInt_lt (x := x)
  have h2 := BitVec.le_toInt (x := x)
  rw [InI16, BitVec.toInt_signExtend_of_le (by decide)]
  norm_num at h1 h2
  omega

theorem State.Sound.pullLoop {cfg : Config} (c : CoreId) (v : VoiceId) (n : Nat) {s : State} (h : s.Sound cfg) :
    (State.pullLoop cfg c v n s).1.Sound cfg := by
  induction n generalizing s with
  | zero => exact h
  | succ n ih =>
    unfold State.pullLoop
    split
    · have hp := h.pull c v
      split <;> (rename_i hl; rw [hl] at hp; have hv := hp.voices c v)
      · exact hp.modVoice c v ⟨hv.1, hv.2, hv.3⟩
      · exact ih (hp.modVoice c v (f := Voice.shiftIn _) ⟨hv.1, hv.2, hv.3.2.1, hv.3.2.2.1, hv.3.2.2.2, inI16_signExtend _⟩)
    · exact h

theorem toI32_nonneg {x : Int} (h0 : 0 ≤ x) (h1 : x ≤ adsrMax) : (toI32 x).toInt = x := by
  rw [toI32, BitVec.toInt_ofInt]
  unfold adsrMax at h1
  exact Int.bmod_eq_of_le (by norm_num; omega) (by norm_num; omega)

theorem value_le_max (x : BitVec 32) : x.toInt ≤ adsrMax := by
  have h := BitVec.toInt_lt (x := x)
  norm_num at h
  unfold adsrMax
  omega

theorem toI32_range_nonneg {x : Int} (h0 : 0 ≤ x) (h1 : x ≤ adsrMax) : 0 ≤ (toI32 x).toInt := by
  rw [toI32_nonneg h0 h1]; exact h0

/-- A step keeps the level non-negative, and only an Off envelope is Off after it: `none` is the only way to stop
(42_adsr.md R172). -/
theorem adsrNext_sound {cfg : Config} {a b : Adsr} (ha : 0 ≤ a.value.toInt) (hb : adsrNext cfg a = some b) :
    0 ≤ b.value.toInt ∧ (b.phase = .off → b = a ∧ a.phase = .off) := by
  have hev : (enterRelease a).value = a.value := by unfold enterRelease; split <;> rfl
  have heo : (enterRelease a).phase = .off → enterRelease a = a ∧ a.phase = .off := by
    unfold enterRelease; split
    · intro h; cases h
    · intro h; exact ⟨rfl, h⟩
  unfold adsrNext at hb
  generalize enterRelease a = e at *
  rw [← hev] at ha
  have hmax := value_le_max e.value
  dsimp only at hb
  split at hb <;> rename_i hp
  · cases hb
    unfold attackStep
    dsimp only
    split
    · exact ⟨show 0 ≤ (toI32 adsrMax).toInt by decide, fun h => by cases h⟩
    · refine ⟨toI32_range_nonneg (by omega) (by omega), fun h => ?_⟩
      rw [show ({ e with value := toI32 _ } : Adsr).phase = e.phase from rfl, hp] at h
      cases h
  · cases hb
    refine ⟨toI32_range_nonneg (by omega) (by omega), fun h => ?_⟩
    simp only [decayStep] at h
    split at h <;> cases h
  · unfold sustainStep at hb
    dsimp only at hb
    split at hb
    · split at hb
      · cases hb
      · cases hb
        refine ⟨toI32_range_nonneg (by omega) (by omega), fun h => ?_⟩
        rw [show ({ e with value := toI32 _ } : Adsr).phase = e.phase from rfl, hp] at h
        cases h
    · cases hb
      refine ⟨toI32_range_nonneg (by unfold adsrMax; omega) (by omega), fun h => ?_⟩
      rw [show ({ e with value := toI32 _ } : Adsr).phase = e.phase from rfl, hp] at h
      cases h
  · unfold releaseStep at hb
    dsimp only at hb
    split at hb
    · cases hb
    · cases hb
      refine ⟨toI32_range_nonneg (by omega) (by omega), fun h => ?_⟩
      rw [show ({ e with value := toI32 _ } : Adsr).phase = e.phase from rfl, hp] at h
      cases h
  · cases hb
    obtain ⟨rfl, h⟩ := heo hp
    exact ⟨ha, fun _ => ⟨rfl, h⟩⟩

theorem State.Sound.adsrStep {cfg : Config} {s : State} (h : s.Sound cfg) (c : CoreId) (v : VoiceId) :
    (s.adsrStep cfg c v).Sound cfg := by
  have hv := h.voices c v
  unfold State.adsrStep
  split
  · rename_i a ha
    obtain ⟨h1, h2⟩ := adsrNext_sound hv.1 ha
    refine h.modVoice c v ⟨h1, fun hp => ?_, hv.3⟩
    obtain ⟨rfl, ho⟩ := h2 hp
    exact hv.2 ho
  · exact h.stopVoice c v

/-- `last_output` may be set freely on a sounding voice, to 0 on any. -/
theorem State.Sound.setLast {cfg : Config} {s : State} (h : s.Sound cfg) (c : CoreId) (v : VoiceId) {x : Int}
    (hx : (s.voice c v).adsr.phase = .off → x = 0) : (s.setLast c v x).Sound cfg := by
  have hv := h.voices c v
  refine h.modVoice c v ⟨hv.1, fun hp => ⟨(hv.2 hp).1, ?_⟩, hv.3⟩
  rw [hx hp]; rfl

theorem State.Sound.voiceOutput {cfg : Config} {s : State} (h : s.Sound cfg) (c : CoreId) (v : VoiceId) (x : Int) :
    (s.voiceOutput cfg c v x).1.Sound cfg := by
  unfold State.voiceOutput
  dsimp only
  split
  · exact (h.adsrStep c v).setLast c v fun _ => rfl
  · rename_i ho; exact (h.adsrStep c v).setLast c v fun hp => absurd hp ho

theorem State.Sound.voiceSample {cfg : Config} {s : State} (h : s.Sound cfg) (c : CoreId) (v : VoiceId) :
    (s.voiceSample cfg c v).1.Sound cfg := by
  unfold State.voiceSample
  split
  · exact h
  · dsimp only
    generalize BitVec.ofNat 32 ((s.voice c v).samplePosFrac.toNat + s.effectivePitch c v) = pos
    have hv := h.voices c v
    have hp := State.Sound.pullLoop c v (pos.toNat / 4096)
      (h.modVoice c v (f := fun vc => { vc with samplePosFrac := pos }) ⟨hv.1, hv.2, hv.3⟩)
    split <;> (rename_i hl; rw [hl] at hp; exact hp)

theorem State.Sound.voiceTick {cfg : Config} {s : State} (h : s.Sound cfg) (c : CoreId) (v : VoiceId) :
    (s.voiceTick cfg c v).1.Sound cfg := by
  have hb : (s.voiceBody cfg c v).1.Sound cfg := by
    unfold State.voiceBody
    split
    · exact h.setLast c v fun _ => rfl
    · have hp := h.voiceSample c v
      split <;> (rename_i hl; rw [hl] at hp)
      · exact hp.voiceOutput c v _
      · exact hp.setLast c v fun _ => rfl
  have hv := hb.voices c v
  exact hb.modVoice c v ⟨hv.1, hv.2, hv.3⟩

/-- The voice phase of a core keeps the state sound. -/
theorem State.Sound.voiceSums {cfg : Config} {s : State} (h : s.Sound cfg) (c : CoreId) : (s.voiceSums cfg c).1.Sound cfg :=
  voiceSums_induct (p := State.Sound cfg) (fun _ v h => h.voiceTick c v) s h

/-! ## Read positions -/

theorem State.pos_modVoice (s : State) (c d : CoreId) (v w : VoiceId) {f : Voice → Voice}
    (hf : ∀ vc, (f vc).samplePosFrac = vc.samplePosFrac) : (s.modVoice c v f).pos d w = s.pos d w := by
  rw [State.pos, State.voice_modVoice]; split
  · rename_i h; rw [hf, h.1, h.2]; rfl
  · rfl

theorem State.pos_modVoice_ne (s : State) {c d : CoreId} {v w : VoiceId} (f : Voice → Voice) (h : ¬(d = c ∧ w = v)) :
    (s.modVoice c v f).pos d w = s.pos d w := by rw [State.pos, State.voice_modVoice, if_neg h]; rfl

theorem State.pos_stopVoice (s : State) (c d : CoreId) (v w : VoiceId) : (s.stopVoice c v).pos d w = s.pos d w := by
  have h : (s.stopVoice c v).pos d w = (s.modVoice c v fun vc =>
      { vc with adsr := { vc.adsr with phase := .off, value := 0#32 }, lastOutput := 0#32 }).pos d w := by
    cases c <;> cases d <;> rfl
  rw [h, State.pos_modVoice]
  exact fun _ => rfl

theorem State.pos_endOfBlock (s : State) (c d : CoreId) (v w : VoiceId) : (s.endOfBlock c v).pos d w = s.pos d w := by
  unfold State.endOfBlock
  dsimp only
  split
  · split
    · exact State.pos_modVoice s c d v w fun _ => rfl
    · exact State.pos_stopVoice s c d v w
  · rfl

theorem State.pos_getBlock (cfg : Config) (s : State) (a : Addr) (p1 p2 : Half) (d : CoreId) (w : VoiceId) :
    (s.getBlock cfg a p1 p2).1.pos d w = s.pos d w := by
  unfold State.getBlock
  split
  · rfl
  · dsimp only; split
    · cases d <;> rfl
    · rfl

theorem State.pos_fetchBlock (cfg : Config) (s : State) (c d : CoreId) (v w : VoiceId) :
    (s.fetchBlock cfg c v).pos d w = s.pos d w := by
  unfold State.fetchBlock
  dsimp only
  refine (State.pos_modVoice _ c d v w (f := Voice.latch _ _ _) fun _ => rfl).trans ((State.pos_getBlock cfg _ _ _ _ d w).trans ?_)
  simp [State.pos, State.voice]

theorem State.pos_takeSample (s : State) (c d : CoreId) (v w : VoiceId) : (s.takeSample c v).1.pos d w = s.pos d w := by
  unfold State.takeSample
  dsimp only
  split
  · exact State.pos_modVoice s c d v w fun _ => rfl
  · rfl

theorem State.pos_pull (cfg : Config) (s : State) (c d : CoreId) (v w : VoiceId) : (s.pull cfg c v).1.pos d w = s.pos d w := by
  unfold State.pull
  dsimp only
  split
  · split
    · exact State.pos_endOfBlock s c d v w
    · exact (State.pos_takeSample _ c d v w).trans ((State.pos_fetchBlock cfg _ c d v w).trans (State.pos_endOfBlock s c d v w))
  · exact State.pos_takeSample s c d v w

/-- The pull loop leaves other voices' positions alone, and with enough fuel ends below one sample. -/
theorem State.pos_pullLoop (cfg : Config) (c : CoreId) (v : VoiceId) (n : Nat) (s : State) :
    ((s.pos c v).toNat < (n + 1) * 4096 → ((State.pullLoop cfg c v n s).1.pos c v).toNat < 4096)
      ∧ ∀ d w, ¬(d = c ∧ w = v) → (State.pullLoop cfg c v n s).1.pos d w = s.pos d w := by
  induction n generalizing s with
  | zero => exact ⟨fun h => by rw [State.pullLoop]; omega, fun _ _ _ => rfl⟩
  | succ n ih =>
    unfold State.pullLoop
    split
    · rename_i hge
      have hpos := fun d w => State.pos_pull cfg s c d v w
      split <;> (rename_i hl; rw [hl] at hpos; dsimp only at hpos)
      · refine ⟨fun _ => ?_, fun d w hn => (State.pos_modVoice_ne _ _ hn).trans (hpos d w)⟩
        simp only [State.pos, State.voice_modVoice_same, Voice.dropWhole, BitVec.toNat_and]
        exact Nat.lt_of_le_of_lt Nat.and_le_right (by decide)
      · rename_i s1 x
        have h1 : ((s1.modVoice c v (Voice.shiftIn x)).pos c v).toNat = (s.pos c v).toNat - 4096 := by
          have h2 := hpos c v
          have h3 := (s.pos c v).isLt
          simp only [State.pos, State.voice_modVoice_same, Voice.shiftIn] at h2 h3 hge ⊢
          rw [h2, BitVec.toNat_sub, BitVec.toNat_ofNat]
          omega
        obtain ⟨i1, i2⟩ := ih (s1.modVoice c v (Voice.shiftIn x))
        exact ⟨fun h => i1 (by omega), fun d w hn => (i2 d w hn).trans ((State.pos_modVoice_ne _ _ hn).trans (hpos d w))⟩
    · rename_i hlt; exact ⟨fun _ => show (s.pos c v).toNat < 4096 by simp only [State.pos]; omega, fun _ _ _ => rfl⟩

theorem State.pos_adsrStep (cfg : Config) (s : State) (c d : CoreId) (v w : VoiceId) :
    (s.adsrStep cfg c v).pos d w = s.pos d w := by
  unfold State.adsrStep
  split
  · exact State.pos_modVoice s c d v w fun _ => rfl
  · exact State.pos_stopVoice s c d v w

theorem State.pos_setLast (s : State) (c d : CoreId) (v w : VoiceId) (x : Int) : (s.setLast c v x).pos d w = s.pos d w :=
  State.pos_modVoice s c d v w fun _ => rfl

theorem State.pos_stepVoiceSlides (cfg : Config) (s : State) (c d : CoreId) (v w : VoiceId) :
    (s.stepVoiceSlides cfg c v).pos d w = s.pos d w := State.pos_modVoice s c d v w fun _ => rfl

theorem State.pos_voiceOutput (cfg : Config) (s : State) (c d : CoreId) (v w : VoiceId) (x : Int) :
    (s.voiceOutput cfg c v x).1.pos d w = s.pos d w := by
  unfold State.voiceOutput
  dsimp only
  split <;> exact (State.pos_setLast _ c d v w _).trans (State.pos_adsrStep cfg s c d v w)

theorem PosOk.voiceSample {s : State} (h : PosOk s) (cfg : Config) (c : CoreId) (v : VoiceId) :
    PosOk (s.voiceSample cfg c v).1 := by
  unfold State.voiceSample
  split
  · exact h
  · dsimp only
    generalize BitVec.ofNat 32 ((s.voice c v).samplePosFrac.toNat + s.effectivePitch c v) = pos
    obtain ⟨h1, h2⟩ := State.pos_pullLoop cfg c v (pos.toNat / 4096) (s.modVoice c v fun vc => { vc with samplePosFrac := pos })
    have hp : PosOk (State.pullLoop cfg c v (pos.toNat / 4096) (s.modVoice c v fun vc => { vc with samplePosFrac := pos })).1 := by
      intro d w
      by_cases hn : d = c ∧ w = v
      · rw [hn.1, hn.2]
        exact h1 (by simp only [State.pos, State.voice_modVoice_same]; omega)
      · rw [h2 d w hn, State.pos_modVoice_ne s _ hn]; exact h d w
    split <;> (rename_i hl; rw [hl] at hp; exact hp)

/-- The tick of a voice leaves every read position below one sample. -/
theorem PosOk.voiceTick {s : State} (h : PosOk s) (cfg : Config) (c : CoreId) (v : VoiceId) : PosOk (s.voiceTick cfg c v).1 := by
  have hl : ∀ (t : State) (x : Int), PosOk t → PosOk (t.setLast c v x) := fun t x ht d w => by
    rw [State.pos_setLast]; exact ht d w
  have hb : PosOk (s.voiceBody cfg c v).1 := by
    unfold State.voiceBody
    split
    · exact hl _ _ h
    · have hp := h.voiceSample cfg c v
      split <;> (rename_i he; rw [he] at hp)
      · exact fun d w => by rw [State.pos_voiceOutput]; exact hp d w
      · exact hl _ _ hp
  exact fun d w => by rw [State.voiceTick, State.pos_stepVoiceSlides]; exact hb d w

theorem PosOk.voiceSums {s : State} (h : PosOk s) (cfg : Config) (c : CoreId) : PosOk (s.voiceSums cfg c).1 :=
  voiceSums_induct (p := PosOk) (fun _ v h => h.voiceTick cfg c v) s h

end Sys2Proof.Machine
end

