-- ==== Sys2Proof/Laws/Tick.lean ====
section
/-! SUPPORT. What the reverb unit, the core mix and the tick can do: where they write, what they leave alone (`TickPhase`), and that
they keep the invariant. -/

namespace Sys2Proof.Machine

/-! ## The frame of a tick -/

/-- What the mixes of a tick may change: running fields, flags being set, and, on an odd tick, the reverb regions of the cores with
effects on. -/
structure TickPhase (cfg : Config) (s t : State) : Prop where
  globals : SameGlobals s t
  settings : ∀ c, (t.core c).settings = (s.core c).settings
  voices : ∀ c v, (t.voice c v).settings = (s.voice c v).settings
  flags : ∀ c, FlagsOnlySet (s.core c) (t.core c)
  mem : ∀ b, Memory.byte cfg t.mem b ≠ Memory.byte cfg s.mem b →
    s.tick.getLsbD 0 = true ∧ ∃ c, (s.core c).fxEn = true ∧ InReverbRegion (s.core c) (b / 2)

theorem TickPhase.refl (cfg : Config) (s : State) : TickPhase cfg s s :=
  ⟨.refl s, fun _ => rfl, fun _ _ => rfl, fun _ => .refl _, fun _ h => absurd rfl h⟩

theorem TickPhase.trans {cfg : Config} {s t u : State} (h : TickPhase cfg s t) (k : TickPhase cfg t u) : TickPhase cfg s u := by
  refine ⟨h.globals.trans k.globals, fun c => (k.settings c).trans (h.settings c), fun c v => (k.voices c v).trans (h.voices c v),
    fun c => (h.flags c).trans (k.flags c), fun b hb => ?_⟩
  by_cases ht : Memory.byte cfg t.mem b = Memory.byte cfg s.mem b
  · obtain ⟨h1, c, h2, h3⟩ := k.mem b (ht ▸ hb)
    have hf : (t.core c).fxEn = (s.core c).fxEn :=
      show (t.core c).settings.fxEn = (s.core c).settings.fxEn by rw [h.settings c]
    have he : (t.core c).esa = (s.core c).esa :=
      show (t.core c).settings.esa = (s.core c).settings.esa by rw [h.settings c]
    have ha : (t.core c).eea = (s.core c).eea :=
      show (t.core c).settings.eea = (s.core c).settings.eea by rw [h.settings c]
    exact ⟨h.globals.1 ▸ h1, c, hf ▸ h2, by rw [InReverbRegion, ← he, ← ha]; exact h3⟩
  · exact h.mem b ht

theorem VoicePhase.tickPhase {s t : State} (h : VoicePhase s t) (cfg : Config) : TickPhase cfg s t :=
  ⟨h.globals, fun c => show (t.core c).rest.settings = (s.core c).rest.settings by rw [h.rest c], h.settings, h.flags, fun b hb => absurd (by rw [h.mem]) hb⟩

/-- A change of a core's running fields. -/
theorem TickPhase.modCore (cfg : Config) (s : State) (c : CoreId) {f : Core → Core}
    (hf : (f (s.core c)).settings = (s.core c).settings) (hv : (f (s.core c)).voices = (s.core c).voices)
    (hg : FlagsOnlySet (s.core c) (f (s.core c))) : TickPhase cfg s (s.modCore c f) := by
  refine ⟨by simp [SameGlobals], fun d => ?_, fun d v => ?_, fun d => ?_, fun b hb => absurd (by simp) hb⟩
  · rw [State.core_modCore]; split
    · rename_i h; subst h; exact hf
    · rfl
  · rw [State.voice, State.core_modCore]; split
    · rename_i h; subst h; rw [Core.voice, hv]; rfl
    · rfl
  · rw [State.core_modCore]; split
    · rename_i h; subst h; exact hg
    · exact .refl _

/-! ## The reverb unit -/

/-- Every tap address is inside the region (44_reverb.md R225). -/
theorem Core.tapAddr_range (k : Core) (name : RevOff) (ahead : Nat) : InReverbRegion k (k.tapAddr name ahead).toNat := by
  have h1 := k.esa.isLt
  have h2 := k.eea.isLt
  unfold InReverbRegion Core.tapAddr Core.bufferLen Core.bufferStart Core.bufferEnd
  have h3 := Nat.mod_lt (k.revCursor.toNat + (k.offset name).toNat + ahead)
    (show 0 < max k.esa.toNat k.eea.toNat - min k.esa.toNat k.eea.toNat + 1 by omega)
  rw [BitVec.toNat_ofNat]
  omega

/-- A store to a tap changes the region of the core whose tap it is, and nothing but memory and the cache. -/
theorem setTap_byte (cfg : Config) (s : State) (k : Core) (name : RevOff) (ahead : Nat) (x : Int) {b : Nat}
    (hb : ¬ InReverbRegion k (b / 2)) : Memory.byte cfg (s.setTap cfg k name ahead x).mem b = Memory.byte cfg s.mem b := by
  have h := k.tapAddr_range name ahead
  refine Memory.byte_setWord_ne _ _ _ (fun he => hb ?_) (fun he => hb ?_)
  · rw [he, show 2 * (k.tapAddr name ahead).toNat / 2 = (k.tapAddr name ahead).toNat by omega]; exact h
  · rw [he, show (2 * (k.tapAddr name ahead).toNat + 1) / 2 = (k.tapAddr name ahead).toNat by omega]; exact h

/-- Only memory and the cache differ, and memory only in the region of `k`. -/
structure RegionWrite (cfg : Config) (k : Core) (s t : State) : Prop where
  core0 : t.core0 = s.core0
  core1 : t.core1 = s.core1
  globals : SameGlobals s t
  byte : ∀ b, ¬ InReverbRegion k (b / 2) → Memory.byte cfg t.mem b = Memory.byte cfg s.mem b

theorem RegionWrite.setTap (cfg : Config) (s : State) (k : Core) (name : RevOff) (ahead : Nat) (x : Int) :
    RegionWrite cfg k s (s.setTap cfg k name ahead x) :=
  ⟨rfl, rfl, ⟨rfl, rfl, rfl, rfl, rfl, rfl, rfl, rfl⟩, fun _ => setTap_byte cfg s k name ahead x⟩

theorem RegionWrite.trans {cfg : Config} {k : Core} {s t u : State} (h : RegionWrite cfg k s t) (g : RegionWrite cfg k t u) :
    RegionWrite cfg k s u :=
  ⟨g.core0.trans h.core0, g.core1.trans h.core1, h.globals.trans g.globals, fun b hb => (g.byte b hb).trans (h.byte b hb)⟩

theorem RegionWrite.core {cfg : Config} {k : Core} {s t : State} (h : RegionWrite cfg k s t) (c : CoreId) : t.core c = s.core c := by
  cases c
  · exact h.core0
  · exact h.core1

theorem RegionWrite.reverbIir (cfg : Config) (s : State) (k : Core) (xl xr : Int) :
    RegionWrite cfg k s (s.reverbIir cfg k xl xr) :=
  (((RegionWrite.setTap cfg s k .iirDestA0 1 _).trans (.setTap cfg _ k .iirDestA1 1 _)).trans
    (.setTap cfg _ k .iirDestB0 1 _)).trans (.setTap cfg _ k .iirDestB1 1 _)

theorem RegionWrite.reverbMix (cfg : Config) (s : State) (k : Core) : RegionWrite cfg k s (s.reverbMix cfg k) :=
  (((RegionWrite.setTap cfg s k .mixDestA0 0 _).trans (.setTap cfg _ k .mixDestA1 0 _)).trans
    (.setTap cfg _ k .mixDestB0 0 _)).trans (.setTap cfg _ k .mixDestB1 0 _)

theorem RegionWrite.network (cfg : Config) (s : State) (k : Core) (xl xr : Int) :
    RegionWrite cfg k s ((s.reverbIir cfg k xl xr).reverbMix cfg k) :=
  (RegionWrite.reverbIir cfg s k xl xr).trans (.reverbMix cfg _ k)

theorem State.Sound.network {cfg : Config} {s : State} (h : s.Sound cfg) (k : Core) (xl xr : Int) :
    ((s.reverbIir cfg k xl xr).reverbMix cfg k).Sound cfg := by
  unfold State.reverbIir State.reverbMix State.setTap
  exact (((((((h.memWrite _ _).memWrite _ _).memWrite _ _).memWrite _ _).memWrite _ _).memWrite _ _).memWrite _ _).memWrite _ _

/-- A network write on an odd tick of a core with effects on is within the frame of the tick. -/
theorem RegionWrite.tickPhase {cfg : Config} {c : CoreId} {s t : State} (h : RegionWrite cfg (s.core c) s t)
    (ho : s.tick.getLsbD 0 = true) (hf : (s.core c).fxEn = true) : TickPhase cfg s t :=
  ⟨h.globals, fun d => by rw [h.core], fun d v => by rw [State.voice, h.core]; rfl, fun d => by rw [h.core]; exact .refl _,
    fun b hb => ⟨ho, c, hf, by by_contra hn; exact hb (h.byte b hn)⟩⟩

theorem TickPhase.reverbTick {cfg : Config} {s : State} {c : CoreId} (hf : (s.core c).fxEn = true) (x : Sig) :
    TickPhase cfg s (s.reverbTick cfg c x).1 := by
  unfold State.reverbTick
  split
  · rename_i ho
    have h := RegionWrite.network cfg s (s.core c) (cfg.reverbLpf (s.core c).revHeld.l (toI16 x.l)).toInt
      (cfg.reverbLpf (s.core c).revHeld.r (toI16 x.r)).toInt
    unfold State.reverbOdd
    dsimp only
    exact (h.tickPhase ho hf).trans (.modCore cfg _ c rfl rfl ⟨fun _ h => h, fun h => h⟩)
  · unfold State.reverbEven
    dsimp only
    exact .modCore cfg s c rfl rfl ⟨fun _ h => h, fun h => h⟩

theorem State.Sound.reverbTick {cfg : Config} {s : State} (h : s.Sound cfg) (c : CoreId) (x : Sig) :
    (s.reverbTick cfg c x).1.Sound cfg := by
  unfold State.reverbTick
  split
  · unfold State.reverbOdd
    dsimp only
    have hn := h.network (s.core c) (cfg.reverbLpf (s.core c).revHeld.l (toI16 x.l)).toInt
      (cfg.reverbLpf (s.core c).revHeld.r (toI16 x.r)).toInt
    exact hn.modCore c rfl rfl (hn.outPos_lt c)
  · unfold State.reverbEven
    dsimp only
    exact h.modCore c rfl rfl (h.outPos_lt c)

theorem PosOk.of_voices {s t : State} (h : PosOk s) (hv : ∀ c v, t.voice c v = s.voice c v) : PosOk t := fun c v => by
  rw [State.pos, hv]; exact h c v

theorem voice_modCore {s : State} {c : CoreId} {f : Core → Core} (hv : (f (s.core c)).voices = (s.core c).voices) (d : CoreId)
    (v : VoiceId) : (s.modCore c f).voice d v = s.voice d v := by
  rw [State.voice, State.core_modCore]; split
  · rename_i h; subst h; rw [Core.voice, hv]; rfl
  · rfl

theorem voice_reverbTick (cfg : Config) (s : State) (c d : CoreId) (v : VoiceId) (x : Sig) :
    (s.reverbTick cfg c x).1.voice d v = s.voice d v := by
  unfold State.reverbTick
  split
  · unfold State.reverbOdd
    refine (voice_modCore rfl d v).trans ?_
    rw [State.voice, RegionWrite.core (RegionWrite.network cfg s (s.core c) _ _)]; rfl
  · unfold State.reverbEven
    dsimp only
    exact voice_modCore rfl d v

/-- What the reverb unit can change of a core: its cursor, its last result, its held input. -/
theorem core_reverbTick (cfg : Config) (s : State) (c d : CoreId) (x : Sig) :
    ∃ r1 r2 r3, (s.reverbTick cfg c x).1.core d = { s.core d with revCursor := r1, revLast := r2, revHeld := r3 } := by
  unfold State.reverbTick
  split
  · unfold State.reverbOdd
    dsimp only
    have h := RegionWrite.network cfg s (s.core c) (cfg.reverbLpf (s.core c).revHeld.l (toI16 x.l)).toInt
      (cfg.reverbLpf (s.core c).revHeld.r (toI16 x.r)).toInt
    rw [State.core_modCore]
    split
    · rename_i hd; subst hd; rw [h.core]; exact ⟨_, _, _, rfl⟩
    · rw [h.core]; exact ⟨_, _, _, rfl⟩
  · unfold State.reverbEven
    dsimp only
    rw [State.core_modCore]
    split
    · rename_i hd; subst hd; exact ⟨_, _, _, rfl⟩
    · exact ⟨_, _, _, rfl⟩

/-! ## The mix of a core -/

theorem TickPhase.preMaster (cfg : Config) (s : State) (c : CoreId) (x : Sums) : TickPhase cfg s (s.preMaster cfg c x).1 := by
  unfold State.preMaster
  split
  · exact .reverbTick ‹_› x.wet
  · exact .refl cfg s

theorem TickPhase.mixCore (cfg : Config) (s : State) (c : CoreId) (ext inp : Sig) : TickPhase cfg s (s.mixCore cfg c ext inp).1 := by
  unfold State.mixCore
  dsimp only
  refine (((VoicePhase.voiceSums cfg s c).tickPhase cfg).trans (.preMaster cfg _ c _)).trans
    (.modCore cfg _ c ?_ rfl ⟨fun _ h => h, fun h => h⟩)
  simp only [Core.settings, Core.finishMix, slideStep_mode]

theorem State.Sound.mixCore {cfg : Config} {s : State} (h : s.Sound cfg) (c : CoreId) (ext inp : Sig) :
    (s.mixCore cfg c ext inp).1.Sound cfg := by
  have hp : ∀ (t : State) (x : Sums), t.Sound cfg → (t.preMaster cfg c x).1.Sound cfg := by
    intro t x ht
    unfold State.preMaster
    split
    · exact ht.reverbTick c x.wet
    · exact ht
  unfold State.mixCore
  dsimp only
  exact (hp _ _ (h.voiceSums c)).modCore c rfl rfl (Nat.mod_lt _ cfg.outRingLen_pos)

theorem PosOk.mixCore {s : State} (h : PosOk s) (cfg : Config) (c : CoreId) (ext inp : Sig) : PosOk (s.mixCore cfg c ext inp).1 := by
  have hp : ∀ (t : State) (x : Sums), PosOk t → PosOk (t.preMaster cfg c x).1 := by
    intro t x ht
    unfold State.preMaster
    split
    · exact ht.of_voices fun d v => voice_reverbTick cfg t c d v x.wet
    · exact ht
  unfold State.mixCore
  dsimp only
  exact (hp _ _ (h.voiceSums cfg c)).of_voices fun d v => voice_modCore rfl d v

/-! ## The tick -/

theorem TickPhase.stepNoise (cfg : Config) (s : State) : TickPhase cfg s (s.stepNoise cfg) :=
  ⟨⟨rfl, rfl, rfl, rfl, rfl, rfl, rfl, rfl⟩, fun c => by cases c <;> rfl, fun c _ => by cases c <;> rfl,
    fun c => by cases c <;> exact ⟨fun _ h => h, fun h => h⟩, fun _ h => absurd rfl h⟩

/-- The state part of a tick before the push. -/
theorem TickPhase.mixes (cfg : Config) (s : State) : TickPhase cfg s ((s.stepNoise cfg).mixBoth cfg).1 :=
  ((TickPhase.stepNoise cfg s).trans (.mixCore cfg _ .c0 _ _)).trans (.mixCore cfg _ .c1 _ _)

theorem VoicePhase.noise {s t : State} (h : VoicePhase s t) (c : CoreId) : (t.core c).noise = (s.core c).noise :=
  show (t.core c).rest.noise = (s.core c).rest.noise by rw [h.rest]

theorem VoicePhase.outPos {s t : State} (h : VoicePhase s t) (c : CoreId) : (t.core c).outPos = (s.core c).outPos :=
  show (t.core c).rest.outPos = (s.core c).rest.outPos by rw [h.rest]

theorem core_preMaster (cfg : Config) (s : State) (c d : CoreId) (x : Sums) :
    ∃ r1 r2 r3, (s.preMaster cfg c x).1.core d = { s.core d with revCursor := r1, revLast := r2, revHeld := r3 } := by
  unfold State.preMaster
  split
  · exact core_reverbTick cfg s c d x.wet
  · exact ⟨_, _, _, rfl⟩

/-- The mix of a core leaves both noise generators alone and advances the ring position of its core only. -/
theorem noise_outPos_mixCore (cfg : Config) (s : State) (c d : CoreId) (ext inp : Sig) :
    ((s.mixCore cfg c ext inp).1.core d).noise = (s.core d).noise
      ∧ ((s.mixCore cfg c ext inp).1.core d).outPos =
          if d = c then ((s.core d).outPos + 1) % cfg.outRingLen else (s.core d).outPos := by
  unfold State.mixCore
  dsimp only
  have hn := (VoicePhase.voiceSums cfg s c).noise d
  have ho := (VoicePhase.voiceSums cfg s c).outPos d
  generalize Core.gates _ _ _ _ _ = x
  generalize (s.voiceSums cfg c).1 = u at *
  obtain ⟨r1, r2, r3, h⟩ := core_preMaster cfg u c d x
  generalize u.preMaster cfg c x = p at *
  rw [State.core_modCore]
  split
  · rename_i hd; subst hd
    simp only [Core.finishMix, h, hn, ho, and_self]
  · simp only [h, hn, ho, and_self]

theorem core_runTick (cfg : Config) (s : State) (c : CoreId) :
    (s.runTick cfg).core c = (((s.stepNoise cfg).mixBoth cfg).1).core c := by
  unfold State.runTick
  generalize (s.stepNoise cfg).mixBoth cfg = m
  cases c <;> rfl

theorem mem_runTick (cfg : Config) (s : State) : (s.runTick cfg).mem = (((s.stepNoise cfg).mixBoth cfg).1).mem := by
  unfold State.runTick
  generalize (s.stepNoise cfg).mixBoth cfg = m
  rfl

/-- The globals a tick leaves alone, and the counter it advances. -/
theorem globals_runTick (cfg : Config) (s : State) :
    (s.runTick cfg).tick = s.tick + 1 ∧ (s.runTick cfg).cmdErr = s.cmdErr ∧ (s.runTick cfg).errCode = s.errCode
      ∧ (s.runTick cfg).burstRemaining = s.burstRemaining ∧ (s.runTick cfg).burstCore = s.burstCore
      ∧ (s.runTick cfg).rspData = s.rspData ∧ (s.runTick cfg).io.pending = s.io.pending
      ∧ (s.runTick cfg).io.inputs = s.io.inputs ∧ (s.runTick cfg).io.pushes = (s.runTick cfg).out :: s.io.pushes := by
  obtain ⟨g1, g2, g3, g4, g5, -, g7, g8⟩ := (TickPhase.mixes cfg s).globals
  unfold State.runTick
  generalize (s.stepNoise cfg).mixBoth cfg = m at *
  refine ⟨?_, g2, g3, g4, g5, g7, ?_, ?_, ?_⟩
  · show m.1.tick + 1 = _; rw [g1]
  · show m.1.io.pending = _; rw [g8]
  · show m.1.io.inputs = _; rw [g8]
  · show _ :: m.1.io.pushes = _; rw [g8]; rfl

theorem State.Sound.stepNoise {cfg : Config} {s : State} (h : s.Sound cfg) : (s.stepNoise cfg).Sound cfg :=
  ⟨h.mem, h.cache, fun c v => by cases c; exacts [h.voices .c0 v, h.voices .c1 v],
    fun c => by cases c; exacts [h.outPos_lt .c0, h.outPos_lt .c1],
    fun c r hr => by cases c; exacts [h.shadow .c0 r hr, h.shadow .c1 r hr]⟩

theorem PosOk.stepNoise {s : State} (h : PosOk s) (cfg : Config) : PosOk (s.stepNoise cfg) :=
  h.of_voices fun c _ => by cases c <;> rfl

/-- A tick keeps the invariant. -/
theorem State.Inv.runTick {cfg : Config} {s : State} (h : s.Inv cfg) : (s.runTick cfg).Inv cfg := by
  rw [State.inv_iff] at h ⊢
  have h1 : (((s.stepNoise cfg).mixBoth cfg).1).Sound cfg := (h.1.stepNoise.mixCore .c0 _ _).mixCore .c1 _ _
  have h2 : PosOk (((s.stepNoise cfg).mixBoth cfg).1) := ((h.2.stepNoise cfg).mixCore cfg .c0 _ _).mixCore cfg .c1 _ _
  unfold State.runTick
  generalize (s.stepNoise cfg).mixBoth cfg = m at h1 h2
  exact ⟨h1.congr rfl rfl h1.mem h1.cache, h2.of_voices fun c _ => by cases c <;> rfl⟩

end Sys2Proof.Machine
end

