-- ==== Sys2Proof/Laws/Exec.lean ====
section
/-! SUPPORT. What one instruction can do, said once (`exec_cases`), so that a rule about every instruction is proved over thirteen
cases and not over 115; and what one step can do (`step_cases`). -/

namespace Sys2Proof.Machine

/-- `TICK` as an equation, so that no proof unfolds a tick to see it is one. -/
theorem exec_tick (s : State) : exec .tick s = .next (s.runTick config) := rfl

/-- What no write to a voice register changes: the envelope's level and phase, the output, the read position, the history. -/
structure VoiceKeeps (x y : Voice) : Prop where
  value : y.adsr.value = x.adsr.value
  phase : y.adsr.phase = x.adsr.phase
  lastOutput : y.lastOutput = x.lastOutput
  pos : y.samplePosFrac = x.samplePosFrac
  hist : y.hist = x.hist

/-- What no write to a core register changes, `ATTR`, `ENDX`, `KON`, `KOFF` and `DATA` apart. -/
structure CoreKeeps (x y : Core) : Prop where
  shadow : y.shadow = x.shadow
  voices : y.voices = x.voices
  outPos : y.outPos = x.outPos
  irqPending : y.irqPending = x.irqPending
  endx : y.endx = x.endx

/-- `exec` of `i` in `s` is a plain `WREG` of a voice register. -/
def IsVoiceWrite (i : Instr) (s : State) : Prop :=
  ∃ c v k d f, exec i s = .next (s.wregVoice c v k d f) ∧ neverShadowed (voiceIndex v k) = false ∧ ∀ vc, VoiceKeeps vc (f vc)

/-- `exec` of `i` in `s` is a plain `WREG` of a core register. -/
def IsCoreWrite (i : Instr) (s : State) : Prop :=
  ∃ c reg d f, exec i s = .next (s.wregCore c reg d f) ∧ neverShadowed reg = false ∧ ∀ k, CoreKeeps k (f k)

theorem neverShadowed_voice_fin : ∀ (v : VoiceId) (k : Fin 16), k.val < 12 → k.val ≠ 5 →
    neverShadowed (voiceIndex v (BitVec.ofFin k)) = false := by decide +kernel

theorem neverShadowed_voice (v : VoiceId) (k : BitVec 4) (h : k.toNat < 12) (h5 : k.toNat ≠ 5) :
    neverShadowed (voiceIndex v k) = false := neverShadowed_voice_fin v k.toFin h h5

/-- One instruction: nothing, a plain register write, or one of the instructions with an effect of its own. -/
theorem exec_cases (i : Instr) (s : State) :
    exec i s = .next s ∨ IsVoiceWrite i s ∨ IsCoreWrite i s
      ∨ (∃ c d, i = .wregAttr c d) ∨ (∃ c d, i = .wregEndxLo c d ∨ i = .wregEndxHi c d)
      ∨ (∃ c d, i = .wregKonLo c d) ∨ (∃ c d, i = .wregKonHi c d) ∨ (∃ c d, i = .wregKoffLo c d) ∨ (∃ c d, i = .wregKoffHi c d)
      ∨ (∃ c d, i = .wregData c d) ∨ (∃ c reg, i = .rreg c reg) ∨ (∃ c n, i = .dmaw c n) ∨ i = .tick ∨ i = .reset := by
  cases i
  case nop | wregVEnvx | wregVVolxl | wregVVolxr | wregStat | wregMvolxl | wregMvolxr => exact .inl rfl
  case wregAttr c d => exact .inr (.inr (.inr (.inl ⟨c, d, rfl⟩)))
  case wregEndxLo c d => exact .inr (.inr (.inr (.inr (.inl ⟨c, d, .inl rfl⟩))))
  case wregEndxHi c d => exact .inr (.inr (.inr (.inr (.inl ⟨c, d, .inr rfl⟩))))
  case wregKonLo c d => exact .inr (.inr (.inr (.inr (.inr (.inl ⟨c, d, rfl⟩)))))
  case wregKonHi c d => exact .inr (.inr (.inr (.inr (.inr (.inr (.inl ⟨c, d, rfl⟩))))))
  case wregKoffLo c d => exact .inr (.inr (.inr (.inr (.inr (.inr (.inr (.inl ⟨c, d, rfl⟩)))))))
  case wregKoffHi c d => exact .inr (.inr (.inr (.inr (.inr (.inr (.inr (.inr (.inl ⟨c, d, rfl⟩))))))))
  case wregData c d => exact .inr (.inr (.inr (.inr (.inr (.inr (.inr (.inr (.inr (.inl ⟨c, d, rfl⟩)))))))))
  case rreg c reg => exact .inr (.inr (.inr (.inr (.inr (.inr (.inr (.inr (.inr (.inr (.inl ⟨c, reg, rfl⟩))))))))))
  case dmaw c n => exact .inr (.inr (.inr (.inr (.inr (.inr (.inr (.inr (.inr (.inr (.inr (.inl ⟨c, n, rfl⟩)))))))))))
  case tick => exact .inr (.inr (.inr (.inr (.inr (.inr (.inr (.inr (.inr (.inr (.inr (.inr (.inl rfl))))))))))))
  case reset => exact .inr (.inr (.inr (.inr (.inr (.inr (.inr (.inr (.inr (.inr (.inr (.inr (.inr rfl))))))))))))
  case wregVVoll | wregVVolr | wregVPitch | wregVAdsr1 | wregVAdsr2 | wregVSsaHi | wregVSsaLo | wregVLsaHi | wregVLsaLo
    | wregVNaxHi | wregVNaxLo =>
    exact .inr (.inl ⟨_, _, _, _, _, rfl, neverShadowed_voice _ _ (by decide) (by decide), fun _ => ⟨rfl, rfl, rfl, rfl, rfl⟩⟩)
  all_goals exact .inr (.inr (.inl ⟨_, _, _, _, rfl, by decide, fun _ => ⟨rfl, rfl, rfl, rfl, rfl⟩⟩))

/-- One step: nothing on the port, the `rst` port, a payload word, an illegal word, or an instruction. -/
theorem step_cases {s t : State} (h : step s = .next t) :
    (s.io.pending = [] ∧ t = s)
      ∨ (∃ rest, s.io.pending = .rst :: rest ∧ t = powerOn config (s.accept rest s.io.inputs))
      ∨ ∃ w inputs rest, s.io.pending = .word w inputs :: rest
          ∧ ((s.burstRemaining ≠ 0#16 ∧ t = (s.accept rest inputs).payload config w)
            ∨ (s.burstRemaining = 0#16 ∧ ∃ e, decode w = .error e ∧ t = flagErr e (s.accept rest inputs))
            ∨ (s.burstRemaining = 0#16 ∧ ∃ i, decode w = .ok i ∧ exec i (s.accept rest inputs) = .next t)) := by
  unfold step at h
  rcases hp : s.io.pending with _ | ⟨e, rest⟩
  · rw [hp] at h; cases h; exact .inl ⟨rfl, rfl⟩
  · rw [hp] at h
    rcases e with ⟨w, inputs⟩ | _
    · refine .inr (.inr ⟨w, inputs, rest, rfl, ?_⟩)
      simp only [eventStep, wordStep, commandStep] at h
      by_cases hb : s.burstRemaining = 0#16
      · rw [if_pos (show (s.accept rest inputs).burstRemaining = 0#16 from hb)] at h
        rcases hd : decode w with e | i
        · rw [hd] at h; cases h; exact .inr (.inl ⟨hb, e, rfl, rfl⟩)
        · rw [hd] at h; exact .inr (.inr ⟨hb, i, rfl, h⟩)
      · rw [if_neg (show ¬(s.accept rest inputs).burstRemaining = 0#16 from hb)] at h
        cases h; exact .inl ⟨hb, rfl⟩
    · cases h; exact .inr (.inl ⟨rest, rfl, rfl⟩)

end Sys2Proof.Machine
end

