-- ==== Sys2Proof/Laws/Inv.lean ====
section
/-! SUPPORT. The shared operations keep the invariants of Safety.lean, one lemma each. -/

namespace Sys2Proof.Machine

theorem inI16_zero : InI16 0#32 := ⟨by decide, by decide⟩

/-- The voice after reset. -/
theorem Voice.ok_reset : Voice.Ok {} :=
  ⟨by decide, fun _ => ⟨rfl, rfl⟩, by decide, inI16_zero, inI16_zero, inI16_zero, inI16_zero⟩

/-- A write to a voice register. -/
theorem Voice.Ok.keeps {x y : Voice} (h : x.Ok) (k : VoiceKeeps x y) : y.Ok :=
  ⟨by rw [k.value]; exact h.1, by rw [k.phase, k.value, k.lastOutput]; exact h.2, by rw [k.pos]; exact h.3, by rw [k.hist]; exact h.4⟩

/-- Key-on. -/
theorem Voice.ok_keyOn (cfg : Config) (x : Voice) : (Voice.keyOn cfg x).Ok := by
  refine ⟨?_, fun h => (by cases h), by simp [Voice.keyOn], inI16_zero, inI16_zero, inI16_zero, inI16_zero⟩
  change 0 ≤ (cfg.adsrSeed.setWidth 32).toInt
  have := cfg.adsrSeed.isLt
  rw [BitVec.toInt_eq_toNat_cond, BitVec.toNat_setWidth]
  split <;> omega

/-- Key-off. -/
theorem Voice.Ok.keyOff {x : Voice} (h : x.Ok) : x.keyOff.Ok := by
  unfold Voice.keyOff
  split
  · exact h
  · exact ⟨h.1, h.2, h.3, h.4⟩

/-- A change of other fields of a core. -/
theorem Core.Ok.congr {cfg : Config} {k k' : Core} (h : k.Ok cfg) (hs : k'.shadow = k.shadow) (hv : k'.voices = k.voices)
    (ho : k'.outPos = k.outPos) : k'.Ok cfg :=
  ⟨fun v => by rw [Core.voice, hv]; exact h.voices v, ho ▸ h.outPos_lt, fun r hr => by simp only [hs]; exact h.shadow r hr⟩

/-- A write to the shadow of a writable register. -/
theorem Core.Ok.setShadow {cfg : Config} {k : Core} (h : k.Ok cfg) {i : BitVec 9} (hi : neverShadowed i = false) (d : Half) :
    ({ k with shadow := k.shadow.set i.toNat d } : Core).Ok cfg :=
  ⟨fun v => h.voices v, h.outPos_lt, fun r hr => by
    have hne : i.toNat ≠ r.toNat := fun e => by rw [BitVec.eq_of_toNat_eq e, hr] at hi; cases hi
    simp only [Vector.getElem_set_ne _ _ hne]
    exact h.shadow r hr⟩

/-- A change of one voice. -/
theorem Core.Ok.modVoice {cfg : Config} {k : Core} (h : k.Ok cfg) (v : VoiceId) {f : Voice → Voice}
    (hf : (f (k.voice v)).Ok) : (k.modVoice v f).Ok cfg :=
  ⟨fun w => by rw [Core.voice_modVoice]; split; exacts [hf, h.voices w], h.outPos_lt, h.shadow⟩

/-- A key event over a mask. -/
theorem Core.Ok.forMask {cfg : Config} {k : Core} (h : k.Ok cfg) (m : VoiceMask) {g : Core → VoiceId → Core} {f : Voice → Voice}
    (hg : ∀ k v w, (g k v).voice w = if w = v then f (k.voice v) else k.voice w) (hs : ∀ k v, (g k v).shadow = k.shadow)
    (ho : ∀ k v, (g k v).outPos = k.outPos) (hf : ∀ x : Voice, x.Ok → (f x).Ok) : (k.forMask m g).Ok cfg :=
  ⟨fun v => by rw [Core.forMask_spec _ _ hg]; split; exacts [hf _ (h.voices v), h.voices v],
    by rw [Core.forMask_keeps Core.outPos _ _ ho]; exact h.outPos_lt,
    fun r hr => by simp only [Core.forMask_keeps Core.shadow _ _ hs]; exact h.shadow r hr⟩

/-- A change of nothing the invariant speaks of. -/
theorem State.Inv.congr {cfg : Config} {s t : State} (h : s.Inv cfg) (hm : t.mem = s.mem) (hc : t.cache = s.cache)
    (hk : ∀ c, t.core c = s.core c) : t.Inv cfg :=
  ⟨hm ▸ h.mem, by rw [hm, hc]; exact h.cache, fun c => by rw [hk]; exact h.cores c⟩

/-- `WREG` of a core register. -/
theorem State.Inv.wregCore {cfg : Config} {s : State} (h : s.Inv cfg) (c : CoreId) {i : BitVec 9} (hi : neverShadowed i = false)
    (d : Half) {f : Core → Core} (hf : ∀ k : Core, k.Ok cfg → (f k).Ok cfg) : (s.wregCore c i d f).Inv cfg := by
  refine ⟨by simpa [State.wregCore] using h.mem, by simpa [State.wregCore] using h.cache, fun p => ?_⟩
  rw [State.core_wregCore]
  split
  · exact hf _ ((h.cores c).setShadow hi d)
  · exact h.cores p

/-- One host memory write. -/
theorem State.Inv.hostMemWrite {cfg : Config} {s : State} (h : s.Inv cfg) (c : CoreId) (d : Half) :
    (s.hostMemWrite cfg c d).Inv cfg := by
  refine ⟨by simpa using Memory.wf_setWord h.mem _ _, by simpa using CacheOk.memWrite h.cache (s.core c).tda d, fun p => ?_⟩
  rw [State.core_hostMemWrite]
  split <;> exact (h.cores p).congr (by simp) (by simp) (by simp)

end Sys2Proof.Machine
end

