-- ==== Sys2Proof/Laws/PerInstr.lean ====
section
/-! SUPPORT. The family `TableMatch`: the encoding of every instruction has the bits its row of opcode_table.json asks for. -/

namespace Sys2Proof.Laws

open Sys2Proof.Machine

/-- The `match` and `mask` of the instruction's row of opcode_table.json. -/
def tableRow : Instr → CmdWord × CmdWord
  | .nop => (0x00000000#32, 0xF0000000#32)
  | .wregVVoll _ _ _ => (0x10000000#32, 0xFC0F0000#32)
  | .wregVVolr _ _ _ => (0x10010000#32, 0xFC0F0000#32)
  | .wregVPitch _ _ _ => (0x10020000#32, 0xFC0F0000#32)
  | .wregVAdsr1 _ _ _ => (0x10030000#32, 0xFC0F0000#32)
  | .wregVAdsr2 _ _ _ => (0x10040000#32, 0xFC0F0000#32)
  | .wregVEnvx _ _ _ => (0x10050000#32, 0xFC0F0000#32)
  | .wregVSsaHi _ _ _ => (0x10060000#32, 0xFC0F0000#32)
  | .wregVSsaLo _ _ _ => (0x10070000#32, 0xFC0F0000#32)
  | .wregVLsaHi _ _ _ => (0x10080000#32, 0xFC0F0000#32)
  | .wregVLsaLo _ _ _ => (0x10090000#32, 0xFC0F0000#32)
  | .wregVNaxHi _ _ _ => (0x100A0000#32, 0xFC0F0000#32)
  | .wregVNaxLo _ _ _ => (0x100B0000#32, 0xFC0F0000#32)
  | .wregVVolxl _ _ _ => (0x100C0000#32, 0xFC0F0000#32)
  | .wregVVolxr _ _ _ => (0x100D0000#32, 0xFC0F0000#32)
  | .wregPmonLo _ _ => (0x11800000#32, 0xFDFF0000#32)
  | .wregPmonHi _ _ => (0x11810000#32, 0xFDFF0000#32)
  | .wregNonLo _ _ => (0x11820000#32, 0xFDFF0000#32)
  | .wregNonHi _ _ => (0x11830000#32, 0xFDFF0000#32)
  | .wregVmixlLo _ _ => (0x11840000#32, 0xFDFF0000#32)
  | .wregVmixlHi _ _ => (0x11850000#32, 0xFDFF0000#32)
  | .wregVmixrLo _ _ => (0x11860000#32, 0xFDFF0000#32)
  | .wregVmixrHi _ _ => (0x11870000#32, 0xFDFF0000#32)
  | .wregVmixelLo _ _ => (0x11880000#32, 0xFDFF0000#32)
  | .wregVmixelHi _ _ => (0x11890000#32, 0xFDFF0000#32)
  | .wregVmixerLo _ _ => (0x118A0000#32, 0xFDFF0000#32)
  | .wregVmixerHi _ _ => (0x118B0000#32, 0xFDFF0000#32)
  | .wregMmix _ _ => (0x118C0000#32, 0xFDFF0000#32)
  | .wregAttr _ _ => (0x118D0000#32, 0xFDFF0000#32)
  | .wregIrqaHi _ _ => (0x118E0000#32, 0xFDFF0000#32)
  | .wregIrqaLo _ _ => (0x118F0000#32, 0xFDFF0000#32)
  | .wregKonLo _ _ => (0x11900000#32, 0xFDFF0000#32)
  | .wregKonHi _ _ => (0x11910000#32, 0xFDFF0000#32)
  | .wregKoffLo _ _ => (0x11920000#32, 0xFDFF0000#32)
  | .wregKoffHi _ _ => (0x11930000#32, 0xFDFF0000#32)
  | .wregTsaHi _ _ => (0x11940000#32, 0xFDFF0000#32)
  | .wregTsaLo _ _ => (0x11950000#32, 0xFDFF0000#32)
  | .wregData _ _ => (0x11960000#32, 0xFDFF0000#32)
  | .wregStat _ _ => (0x11970000#32, 0xFDFF0000#32)
  | .wregEndxLo _ _ => (0x11980000#32, 0xFDFF0000#32)
  | .wregEndxHi _ _ => (0x11990000#32, 0xFDFF0000#32)
  | .wregMvoll _ _ => (0x119A0000#32, 0xFDFF0000#32)
  | .wregMvolr _ _ => (0x119B0000#32, 0xFDFF0000#32)
  | .wregEvoll _ _ => (0x119C0000#32, 0xFDFF0000#32)
  | .wregEvolr _ _ => (0x119D0000#32, 0xFDFF0000#32)
  | .wregIvoll _ _ => (0x119E0000#32, 0xFDFF0000#32)
  | .wregIvolr _ _ => (0x119F0000#32, 0xFDFF0000#32)
  | .wregMvolxl _ _ => (0x11A00000#32, 0xFDFF0000#32)
  | .wregMvolxr _ _ => (0x11A10000#32, 0xFDFF0000#32)
  | .wregEsaHi _ _ => (0x11A20000#32, 0xFDFF0000#32)
  | .wregEsaLo _ _ => (0x11A30000#32, 0xFDFF0000#32)
  | .wregEeaHi _ _ => (0x11A40000#32, 0xFDFF0000#32)
  | .wregEeaLo _ _ => (0x11A50000#32, 0xFDFF0000#32)
  | .wregIirSrcA0Hi _ _ => (0x11C00000#32, 0xFDFF0000#32)
  | .wregIirSrcA0Lo _ _ => (0x11C10000#32, 0xFDFF0000#32)
  | .wregIirSrcA1Hi _ _ => (0x11C20000#32, 0xFDFF0000#32)
  | .wregIirSrcA1Lo _ _ => (0x11C30000#32, 0xFDFF0000#32)
  | .wregIirSrcB0Hi _ _ => (0x11C40000#32, 0xFDFF0000#32)
  | .wregIirSrcB0Lo _ _ => (0x11C50000#32, 0xFDFF0000#32)
  | .wregIirSrcB1Hi _ _ => (0x11C60000#32, 0xFDFF0000#32)
  | .wregIirSrcB1Lo _ _ => (0x11C70000#32, 0xFDFF0000#32)
  | .wregIirDestA0Hi _ _ => (0x11C80000#32, 0xFDFF0000#32)
  | .wregIirDestA0Lo _ _ => (0x11C90000#32, 0xFDFF0000#32)
  | .wregIirDestA1Hi _ _ => (0x11CA0000#32, 0xFDFF0000#32)
  | .wregIirDestA1Lo _ _ => (0x11CB0000#32, 0xFDFF0000#32)
  | .wregIirDestB0Hi _ _ => (0x11CC0000#32, 0xFDFF0000#32)
  | .wregIirDestB0Lo _ _ => (0x11CD0000#32, 0xFDFF0000#32)
  | .wregIirDestB1Hi _ _ => (0x11CE0000#32, 0xFDFF0000#32)
  | .wregIirDestB1Lo _ _ => (0x11CF0000#32, 0xFDFF0000#32)
  | .wregAccSrcA0Hi _ _ => (0x11D00000#32, 0xFDFF0000#32)
  | .wregAccSrcA0Lo _ _ => (0x11D10000#32, 0xFDFF0000#32)
  | .wregAccSrcA1Hi _ _ => (0x11D20000#32, 0xFDFF0000#32)
  | .wregAccSrcA1Lo _ _ => (0x11D30000#32, 0xFDFF0000#32)
  | .wregAccSrcB0Hi _ _ => (0x11D40000#32, 0xFDFF0000#32)
  | .wregAccSrcB0Lo _ _ => (0x11D50000#32, 0xFDFF0000#32)
  | .wregAccSrcB1Hi _ _ => (0x11D60000#32, 0xFDFF0000#32)
  | .wregAccSrcB1Lo _ _ => (0x11D70000#32, 0xFDFF0000#32)
  | .wregAccSrcC0Hi _ _ => (0x11D80000#32, 0xFDFF0000#32)
  | .wregAccSrcC0Lo _ _ => (0x11D90000#32, 0xFDFF0000#32)
  | .wregAccSrcC1Hi _ _ => (0x11DA0000#32, 0xFDFF0000#32)
  | .wregAccSrcC1Lo _ _ => (0x11DB0000#32, 0xFDFF0000#32)
  | .wregAccSrcD0Hi _ _ => (0x11DC0000#32, 0xFDFF0000#32)
  | .wregAccSrcD0Lo _ _ => (0x11DD0000#32, 0xFDFF0000#32)
  | .wregAccSrcD1Hi _ _ => (0x11DE0000#32, 0xFDFF0000#32)
  | .wregAccSrcD1Lo _ _ => (0x11DF0000#32, 0xFDFF0000#32)
  | .wregFbSrcA0Hi _ _ => (0x11E00000#32, 0xFDFF0000#32)
  | .wregFbSrcA0Lo _ _ => (0x11E10000#32, 0xFDFF0000#32)
  | .wregFbSrcA1Hi _ _ => (0x11E20000#32, 0xFDFF0000#32)
  | .wregFbSrcA1Lo _ _ => (0x11E30000#32, 0xFDFF0000#32)
  | .wregFbSrcB0Hi _ _ => (0x11E40000#32, 0xFDFF0000#32)
  | .wregFbSrcB0Lo _ _ => (0x11E50000#32, 0xFDFF0000#32)
  | .wregFbSrcB1Hi _ _ => (0x11E60000#32, 0xFDFF0000#32)
  | .wregFbSrcB1Lo _ _ => (0x11E70000#32, 0xFDFF0000#32)
  | .wregMixDestA0Hi _ _ => (0x11E80000#32, 0xFDFF0000#32)
  | .wregMixDestA0Lo _ _ => (0x11E90000#32, 0xFDFF0000#32)
  | .wregMixDestA1Hi _ _ => (0x11EA0000#32, 0xFDFF0000#32)
  | .wregMixDestA1Lo _ _ => (0x11EB0000#32, 0xFDFF0000#32)
  | .wregMixDestB0Hi _ _ => (0x11EC0000#32, 0xFDFF0000#32)
  | .wregMixDestB0Lo _ _ => (0x11ED0000#32, 0xFDFF0000#32)
  | .wregMixDestB1Hi _ _ => (0x11EE0000#32, 0xFDFF0000#32)
  | .wregMixDestB1Lo _ _ => (0x11EF0000#32, 0xFDFF0000#32)
  | .wregIirAlpha _ _ => (0x11F00000#32, 0xFDFF0000#32)
  | .wregIirCoef _ _ => (0x11F10000#32, 0xFDFF0000#32)
  | .wregInCoefL _ _ => (0x11F20000#32, 0xFDFF0000#32)
  | .wregInCoefR _ _ => (0x11F30000#32, 0xFDFF0000#32)
  | .wregAccCoefA _ _ => (0x11F40000#32, 0xFDFF0000#32)
  | .wregAccCoefB _ _ => (0x11F50000#32, 0xFDFF0000#32)
  | .wregAccCoefC _ _ => (0x11F60000#32, 0xFDFF0000#32)
  | .wregAccCoefD _ _ => (0x11F70000#32, 0xFDFF0000#32)
  | .wregFbAlpha _ _ => (0x11F80000#32, 0xFDFF0000#32)
  | .wregFbX _ _ => (0x11F90000#32, 0xFDFF0000#32)
  | .rreg _ _ => (0x20000000#32, 0xFC000000#32)
  | .dmaw _ _ => (0x30000000#32, 0xFDFF0000#32)
  | .tick => (0x40000000#32, 0xF0000000#32)
  | .reset => (0x50000000#32, 0xF0000000#32)

theorem and_parts (a a' : BitVec 4) (b b' : BitVec 2) (x x' : BitVec 1) (r r' : BitVec 9) (d d' : Half) :
    ((a ++ (b ++ (x ++ (r ++ d))) : BitVec (4 + (2 + (1 + (9 + 16))))) &&& (a' ++ (b' ++ (x' ++ (r' ++ d')))))
      = (a &&& a') ++ ((b &&& b') ++ ((x &&& x') ++ ((r &&& r') ++ (d &&& d')))) := by
  simp only [BitVec.and_append]

theorem word_and_core_mask (op : BitVec 4) (c : CoreId) (reg : BitVec 9) (d : Half) :
    cmdWord op c reg d &&& 0xFDFF0000#32 = cmdWord op .c0 reg 0#16 := by
  refine (and_parts op 0xF#4 0#2 3#2 (coreBit c) 0#1 reg 0x1FF#9 d 0#16).trans ?_
  rw [BitVec.and_zero, BitVec.and_zero, show 0xF#4 = BitVec.allOnes 4 from rfl, show 0x1FF#9 = BitVec.allOnes 9 from rfl,
    BitVec.and_allOnes, BitVec.and_allOnes]
  rfl

theorem word_and_op_mask (op : BitVec 4) (c : CoreId) (reg : BitVec 9) (d : Half) :
    cmdWord op c reg d &&& 0xFC000000#32 = cmdWord op .c0 0#9 0#16 := by
  refine (and_parts op 0xF#4 0#2 3#2 (coreBit c) 0#1 reg 0#9 d 0#16).trans ?_
  rw [BitVec.and_zero, BitVec.and_zero, BitVec.and_zero, show 0xF#4 = BitVec.allOnes 4 from rfl, BitVec.and_allOnes]
  rfl

theorem word_and_voice_mask (c : CoreId) (v : VoiceId) (k : BitVec 4) (d : Half) :
    wregWord c (voiceIndex v k) d &&& 0xFC0F0000#32 = wregWord .c0 (0#5 ++ k) 0#16 := by
  refine (and_parts 1#4 0xF#4 0#2 3#2 (coreBit c) 0#1 (voiceIndex v k) (0#5 ++ BitVec.allOnes 4) d 0#16).trans ?_
  have h : voiceIndex v k &&& (0#5 ++ BitVec.allOnes 4 : BitVec (5 + 4)) = (0#5 ++ k : BitVec (5 + 4)) := by
    refine (BitVec.and_append (x₁ := BitVec.ofNat 5 v.val) (x₂ := 0#5) (y₁ := k) (y₂ := BitVec.allOnes 4)).trans ?_
    rw [BitVec.and_zero, BitVec.and_allOnes]
  rw [BitVec.and_zero, BitVec.and_zero, h]
  rfl

namespace TableMatch

/-- The encoding, cut to the row's mask, is the row's match (30_encoding.md R102). -/
def Statement (i : Instr) : Prop := encode i &&& (tableRow i).2 = (tableRow i).1

theorem nop : Statement .nop := rfl

theorem wregVVoll (c : CoreId) (v : VoiceId) (d : Half) : Statement (.wregVVoll c v d) :=
  (word_and_voice_mask _ _ _ _).trans rfl

theorem wregVVolr (c : CoreId) (v : VoiceId) (d : Half) : Statement (.wregVVolr c v d) :=
  (word_and_voice_mask _ _ _ _).trans rfl

theorem wregVPitch (c : CoreId) (v : VoiceId) (d : Half) : Statement (.wregVPitch c v d) :=
  (word_and_voice_mask _ _ _ _).trans rfl

theorem wregVAdsr1 (c : CoreId) (v : VoiceId) (d : Half) : Statement (.wregVAdsr1 c v d) :=
  (word_and_voice_mask _ _ _ _).trans rfl

theorem wregVAdsr2 (c : CoreId) (v : VoiceId) (d : Half) : Statement (.wregVAdsr2 c v d) :=
  (word_and_voice_mask _ _ _ _).trans rfl

theorem wregVEnvx (c : CoreId) (v : VoiceId) (d : Half) : Statement (.wregVEnvx c v d) :=
  (word_and_voice_mask _ _ _ _).trans rfl

theorem wregVSsaHi (c : CoreId) (v : VoiceId) (d : Half) : Statement (.wregVSsaHi c v d) :=
  (word_and_voice_mask _ _ _ _).trans rfl

theorem wregVSsaLo (c : CoreId) (v : VoiceId) (d : Half) : Statement (.wregVSsaLo c v d) :=
  (word_and_voice_mask _ _ _ _).trans rfl

theorem wregVLsaHi (c : CoreId) (v : VoiceId) (d : Half) : Statement (.wregVLsaHi c v d) :=
  (word_and_voice_mask _ _ _ _).trans rfl

theorem wregVLsaLo (c : CoreId) (v : VoiceId) (d : Half) : Statement (.wregVLsaLo c v d) :=
  (word_and_voice_mask _ _ _ _).trans rfl

theorem wregVNaxHi (c : CoreId) (v : VoiceId) (d : Half) : Statement (.wregVNaxHi c v d) :=
  (word_and_voice_mask _ _ _ _).trans rfl

theorem wregVNaxLo (c : CoreId) (v : VoiceId) (d : Half) : Statement (.wregVNaxLo c v d) :=
  (word_and_voice_mask _ _ _ _).trans rfl

theorem wregVVolxl (c : CoreId) (v : VoiceId) (d : Half) : Statement (.wregVVolxl c v d) :=
  (word_and_voice_mask _ _ _ _).trans rfl

theorem wregVVolxr (c : CoreId) (v : VoiceId) (d : Half) : Statement (.wregVVolxr c v d) :=
  (word_and_voice_mask _ _ _ _).trans rfl

theorem wregPmonLo (c : CoreId) (d : Half) : Statement (.wregPmonLo c d) := (word_and_core_mask _ _ _ _).trans rfl

theorem wregPmonHi (c : CoreId) (d : Half) : Statement (.wregPmonHi c d) := (word_and_core_mask _ _ _ _).trans rfl

theorem wregNonLo (c : CoreId) (d : Half) : Statement (.wregNonLo c d) := (word_and_core_mask _ _ _ _).trans rfl

theorem wregNonHi (c : CoreId) (d : Half) : Statement (.wregNonHi c d) := (word_and_core_mask _ _ _ _).trans rfl

theorem wregVmixlLo (c : CoreId) (d : Half) : Statement (.wregVmixlLo c d) := (word_and_core_mask _ _ _ _).trans rfl

theorem wregVmixlHi (c : CoreId) (d : Half) : Statement (.wregVmixlHi c d) := (word_and_core_mask _ _ _ _).trans rfl

theorem wregVmixrLo (c : CoreId) (d : Half) : Statement (.wregVmixrLo c d) := (word_and_core_mask _ _ _ _).trans rfl

theorem wregVmixrHi (c : CoreId) (d : Half) : Statement (.wregVmixrHi c d) := (word_and_core_mask _ _ _ _).trans rfl

theorem wregVmixelLo (c : CoreId) (d : Half) : Statement (.wregVmixelLo c d) := (word_and_core_mask _ _ _ _).trans rfl

theorem wregVmixelHi (c : CoreId) (d : Half) : Statement (.wregVmixelHi c d) := (word_and_core_mask _ _ _ _).trans rfl

theorem wregVmixerLo (c : CoreId) (d : Half) : Statement (.wregVmixerLo c d) := (word_and_core_mask _ _ _ _).trans rfl

theorem wregVmixerHi (c : CoreId) (d : Half) : Statement (.wregVmixerHi c d) := (word_and_core_mask _ _ _ _).trans rfl

theorem wregMmix (c : CoreId) (d : Half) : Statement (.wregMmix c d) := (word_and_core_mask _ _ _ _).trans rfl

theorem wregAttr (c : CoreId) (d : Half) : Statement (.wregAttr c d) := (word_and_core_mask _ _ _ _).trans rfl

theorem wregIrqaHi (c : CoreId) (d : Half) : Statement (.wregIrqaHi c d) := (word_and_core_mask _ _ _ _).trans rfl

theorem wregIrqaLo (c : CoreId) (d : Half) : Statement (.wregIrqaLo c d) := (word_and_core_mask _ _ _ _).trans rfl

theorem wregKonLo (c : CoreId) (d : Half) : Statement (.wregKonLo c d) := (word_and_core_mask _ _ _ _).trans rfl

theorem wregKonHi (c : CoreId) (d : Half) : Statement (.wregKonHi c d) := (word_and_core_mask _ _ _ _).trans rfl

theorem wregKoffLo (c : CoreId) (d : Half) : Statement (.wregKoffLo c d) := (word_and_core_mask _ _ _ _).trans rfl

theorem wregKoffHi (c : CoreId) (d : Half) : Statement (.wregKoffHi c d) := (word_and_core_mask _ _ _ _).trans rfl

theorem wregTsaHi (c : CoreId) (d : Half) : Statement (.wregTsaHi c d) := (word_and_core_mask _ _ _ _).trans rfl

theorem wregTsaLo (c : CoreId) (d : Half) : Statement (.wregTsaLo c d) := (word_and_core_mask _ _ _ _).trans rfl

theorem wregData (c : CoreId) (d : Half) : Statement (.wregData c d) := (word_and_core_mask _ _ _ _).trans rfl

theorem wregStat (c : CoreId) (d : Half) : Statement (.wregStat c d) := (word_and_core_mask _ _ _ _).trans rfl

theorem wregEndxLo (c : CoreId) (d : Half) : Statement (.wregEndxLo c d) := (word_and_core_mask _ _ _ _).trans rfl

theorem wregEndxHi (c : CoreId) (d : Half) : Statement (.wregEndxHi c d) := (word_and_core_mask _ _ _ _).trans rfl

theorem wregMvoll (c : CoreId) (d : Half) : Statement (.wregMvoll c d) := (word_and_core_mask _ _ _ _).trans rfl

theorem wregMvolr (c : CoreId) (d : Half) : Statement (.wregMvolr c d) := (word_and_core_mask _ _ _ _).trans rfl

theorem wregEvoll (c : CoreId) (d : Half) : Statement (.wregEvoll c d) := (word_and_core_mask _ _ _ _).trans rfl

theorem wregEvolr (c : CoreId) (d : Half) : Statement (.wregEvolr c d) := (word_and_core_mask _ _ _ _).trans rfl

theorem wregIvoll (c : CoreId) (d : Half) : Statement (.wregIvoll c d) := (word_and_core_mask _ _ _ _).trans rfl

theorem wregIvolr (c : CoreId) (d : Half) : Statement (.wregIvolr c d) := (word_and_core_mask _ _ _ _).trans rfl

theorem wregMvolxl (c : CoreId) (d : Half) : Statement (.wregMvolxl c d) := (word_and_core_mask _ _ _ _).trans rfl

theorem wregMvolxr (c : CoreId) (d : Half) : Statement (.wregMvolxr c d) := (word_and_core_mask _ _ _ _).trans rfl

theorem wregEsaHi (c : CoreId) (d : Half) : Statement (.wregEsaHi c d) := (word_and_core_mask _ _ _ _).trans rfl

theorem wregEsaLo (c : CoreId) (d : Half) : Statement (.wregEsaLo c d) := (word_and_core_mask _ _ _ _).trans rfl

theorem wregEeaHi (c : CoreId) (d : Half) : Statement (.wregEeaHi c d) := (word_and_core_mask _ _ _ _).trans rfl

theorem wregEeaLo (c : CoreId) (d : Half) : Statement (.wregEeaLo c d) := (word_and_core_mask _ _ _ _).trans rfl

theorem wregIirSrcA0Hi (c : CoreId) (d : Half) : Statement (.wregIirSrcA0Hi c d) := (word_and_core_mask _ _ _ _).trans rfl

theorem wregIirSrcA0Lo (c : CoreId) (d : Half) : Statement (.wregIirSrcA0Lo c d) := (word_and_core_mask _ _ _ _).trans rfl

theorem wregIirSrcA1Hi (c : CoreId) (d : Half) : Statement (.wregIirSrcA1Hi c d) := (word_and_core_mask _ _ _ _).trans rfl

theorem wregIirSrcA1Lo (c : CoreId) (d : Half) : Statement (.wregIirSrcA1Lo c d) := (word_and_core_mask _ _ _ _).trans rfl

theorem wregIirSrcB0Hi (c : CoreId) (d : Half) : Statement (.wregIirSrcB0Hi c d) := (word_and_core_mask _ _ _ _).trans rfl

theorem wregIirSrcB0Lo (c : CoreId) (d : Half) : Statement (.wregIirSrcB0Lo c d) := (word_and_core_mask _ _ _ _).trans rfl

theorem wregIirSrcB1Hi (c : CoreId) (d : Half) : Statement (.wregIirSrcB1Hi c d) := (word_and_core_mask _ _ _ _).trans rfl

theorem wregIirSrcB1Lo (c : CoreId) (d : Half) : Statement (.wregIirSrcB1Lo c d) := (word_and_core_mask _ _ _ _).trans rfl

theorem wregIirDestA0Hi (c : CoreId) (d : Half) : Statement (.wregIirDestA0Hi c d) := (word_and_core_mask _ _ _ _).trans rfl

theorem wregIirDestA0Lo (c : CoreId) (d : Half) : Statement (.wregIirDestA0Lo c d) := (word_and_core_mask _ _ _ _).trans rfl

theorem wregIirDestA1Hi (c : CoreId) (d : Half) : Statement (.wregIirDestA1Hi c d) := (word_and_core_mask _ _ _ _).trans rfl

theorem wregIirDestA1Lo (c : CoreId) (d : Half) : Statement (.wregIirDestA1Lo c d) := (word_and_core_mask _ _ _ _).trans rfl

theorem wregIirDestB0Hi (c : CoreId) (d : Half) : Statement (.wregIirDestB0Hi c d) := (word_and_core_mask _ _ _ _).trans rfl

theorem wregIirDestB0Lo (c : CoreId) (d : Half) : Statement (.wregIirDestB0Lo c d) := (word_and_core_mask _ _ _ _).trans rfl

theorem wregIirDestB1Hi (c : CoreId) (d : Half) : Statement (.wregIirDestB1Hi c d) := (word_and_core_mask _ _ _ _).trans rfl

theorem wregIirDestB1Lo (c : CoreId) (d : Half) : Statement (.wregIirDestB1Lo c d) := (word_and_core_mask _ _ _ _).trans rfl

theorem wregAccSrcA0Hi (c : CoreId) (d : Half) : Statement (.wregAccSrcA0Hi c d) := (word_and_core_mask _ _ _ _).trans rfl

theorem wregAccSrcA0Lo (c : CoreId) (d : Half) : Statement (.wregAccSrcA0Lo c d) := (word_and_core_mask _ _ _ _).trans rfl

theorem wregAccSrcA1Hi (c : CoreId) (d : Half) : Statement (.wregAccSrcA1Hi c d) := (word_and_core_mask _ _ _ _).trans rfl

theorem wregAccSrcA1Lo (c : CoreId) (d : Half) : Statement (.wregAccSrcA1Lo c d) := (word_and_core_mask _ _ _ _).trans rfl

theorem wregAccSrcB0Hi (c : CoreId) (d : Half) : Statement (.wregAccSrcB0Hi c d) := (word_and_core_mask _ _ _ _).trans rfl

theorem wregAccSrcB0Lo (c : CoreId) (d : Half) : Statement (.wregAccSrcB0Lo c d) := (word_and_core_mask _ _ _ _).trans rfl

theorem wregAccSrcB1Hi (c : CoreId) (d : Half) : Statement (.wregAccSrcB1Hi c d) := (word_and_core_mask _ _ _ _).trans rfl

theorem wregAccSrcB1Lo (c : CoreId) (d : Half) : Statement (.wregAccSrcB1Lo c d) := (word_and_core_mask _ _ _ _).trans rfl

theorem wregAccSrcC0Hi (c : CoreId) (d : Half) : Statement (.wregAccSrcC0Hi c d) := (word_and_core_mask _ _ _ _).trans rfl

theorem wregAccSrcC0Lo (c : CoreId) (d : Half) : Statement (.wregAccSrcC0Lo c d) := (word_and_core_mask _ _ _ _).trans rfl

theorem wregAccSrcC1Hi (c : CoreId) (d : Half) : Statement (.wregAccSrcC1Hi c d) := (word_and_core_mask _ _ _ _).trans rfl

theorem wregAccSrcC1Lo (c : CoreId) (d : Half) : Statement (.wregAccSrcC1Lo c d) := (word_and_core_mask _ _ _ _).trans rfl

theorem wregAccSrcD0Hi (c : CoreId) (d : Half) : Statement (.wregAccSrcD0Hi c d) := (word_and_core_mask _ _ _ _).trans rfl

theorem wregAccSrcD0Lo (c : CoreId) (d : Half) : Statement (.wregAccSrcD0Lo c d) := (word_and_core_mask _ _ _ _).trans rfl

theorem wregAccSrcD1Hi (c : CoreId) (d : Half) : Statement (.wregAccSrcD1Hi c d) := (word_and_core_mask _ _ _ _).trans rfl

theorem wregAccSrcD1Lo (c : CoreId) (d : Half) : Statement (.wregAccSrcD1Lo c d) := (word_and_core_mask _ _ _ _).trans rfl

theorem wregFbSrcA0Hi (c : CoreId) (d : Half) : Statement (.wregFbSrcA0Hi c d) := (word_and_core_mask _ _ _ _).trans rfl

theorem wregFbSrcA0Lo (c : CoreId) (d : Half) : Statement (.wregFbSrcA0Lo c d) := (word_and_core_mask _ _ _ _).trans rfl

theorem wregFbSrcA1Hi (c : CoreId) (d : Half) : Statement (.wregFbSrcA1Hi c d) := (word_and_core_mask _ _ _ _).trans rfl

theorem wregFbSrcA1Lo (c : CoreId) (d : Half) : Statement (.wregFbSrcA1Lo c d) := (word_and_core_mask _ _ _ _).trans rfl

theorem wregFbSrcB0Hi (c : CoreId) (d : Half) : Statement (.wregFbSrcB0Hi c d) := (word_and_core_mask _ _ _ _).trans rfl

theorem wregFbSrcB0Lo (c : CoreId) (d : Half) : Statement (.wregFbSrcB0Lo c d) := (word_and_core_mask _ _ _ _).trans rfl

theorem wregFbSrcB1Hi (c : CoreId) (d : Half) : Statement (.wregFbSrcB1Hi c d) := (word_and_core_mask _ _ _ _).trans rfl

theorem wregFbSrcB1Lo (c : CoreId) (d : Half) : Statement (.wregFbSrcB1Lo c d) := (word_and_core_mask _ _ _ _).trans rfl

theorem wregMixDestA0Hi (c : CoreId) (d : Half) : Statement (.wregMixDestA0Hi c d) := (word_and_core_mask _ _ _ _).trans rfl

theorem wregMixDestA0Lo (c : CoreId) (d : Half) : Statement (.wregMixDestA0Lo c d) := (word_and_core_mask _ _ _ _).trans rfl

theorem wregMixDestA1Hi (c : CoreId) (d : Half) : Statement (.wregMixDestA1Hi c d) := (word_and_core_mask _ _ _ _).trans rfl

theorem wregMixDestA1Lo (c : CoreId) (d : Half) : Statement (.wregMixDestA1Lo c d) := (word_and_core_mask _ _ _ _).trans rfl

theorem wregMixDestB0Hi (c : CoreId) (d : Half) : Statement (.wregMixDestB0Hi c d) := (word_and_core_mask _ _ _ _).trans rfl

theorem wregMixDestB0Lo (c : CoreId) (d : Half) : Statement (.wregMixDestB0Lo c d) := (word_and_core_mask _ _ _ _).trans rfl

theorem wregMixDestB1Hi (c : CoreId) (d : Half) : Statement (.wregMixDestB1Hi c d) := (word_and_core_mask _ _ _ _).trans rfl

theorem wregMixDestB1Lo (c : CoreId) (d : Half) : Statement (.wregMixDestB1Lo c d) := (word_and_core_mask _ _ _ _).trans rfl

theorem wregIirAlpha (c : CoreId) (d : Half) : Statement (.wregIirAlpha c d) := (word_and_core_mask _ _ _ _).trans rfl

theorem wregIirCoef (c : CoreId) (d : Half) : Statement (.wregIirCoef c d) := (word_and_core_mask _ _ _ _).trans rfl

theorem wregInCoefL (c : CoreId) (d : Half) : Statement (.wregInCoefL c d) := (word_and_core_mask _ _ _ _).trans rfl

theorem wregInCoefR (c : CoreId) (d : Half) : Statement (.wregInCoefR c d) := (word_and_core_mask _ _ _ _).trans rfl

theorem wregAccCoefA (c : CoreId) (d : Half) : Statement (.wregAccCoefA c d) := (word_and_core_mask _ _ _ _).trans rfl

theorem wregAccCoefB (c : CoreId) (d : Half) : Statement (.wregAccCoefB c d) := (word_and_core_mask _ _ _ _).trans rfl

theorem wregAccCoefC (c : CoreId) (d : Half) : Statement (.wregAccCoefC c d) := (word_and_core_mask _ _ _ _).trans rfl

theorem wregAccCoefD (c : CoreId) (d : Half) : Statement (.wregAccCoefD c d) := (word_and_core_mask _ _ _ _).trans rfl

theorem wregFbAlpha (c : CoreId) (d : Half) : Statement (.wregFbAlpha c d) := (word_and_core_mask _ _ _ _).trans rfl

theorem wregFbX (c : CoreId) (d : Half) : Statement (.wregFbX c d) := (word_and_core_mask _ _ _ _).trans rfl

theorem rreg (c : CoreId) (reg : BitVec 9) : Statement (.rreg c reg) := (word_and_op_mask _ _ _ _).trans rfl

theorem dmaw (c : CoreId) (n : Half) : Statement (.dmaw c n) := (word_and_core_mask _ _ _ _).trans rfl

theorem tick : Statement .tick := rfl

theorem reset : Statement .reset := rfl

end TableMatch

end Sys2Proof.Laws
end

