-- ==== Sys2Proof/Machine/Reference.lean ====
section
/-! DEFINITION. The spec's reference instance of every parameter (00_scope.md R4, R5), the one its vectors use. The machine does
not run with it (it runs with the opaque `Config.chosen`, Machine/Params.lean); tests do, and it shows that the properties `Config`
asks for can be met. -/

namespace Sys2Proof.Machine

/-- The predictor table (40_adpcm_cache.md R123). -/
def refCoef (p : BitVec 4) : Int × Int :=
  match p.toNat with
  | 1 => (60, 0)
  | 2 => (115, -52)
  | 3 => (98, -55)
  | 4 => (122, -60)
  | _ => (0, 0)

/-- `base(r)` (42_adsr.md R182). -/
def refBase (r : Nat) : Nat :=
  min ((4 + min r 127 % 4) * 2 ^ (min r 127 / 4)) 0x3fffffff

/-- `EXP_OFS` (42_adsr.md R182). -/
def refExpOfs (i : Nat) : Nat := [0, 4, 6, 8, 9, 10, 11, 12][i]?.getD 0

/-- `up(r, e, v)` (42_adsr.md R182). -/
def refUp (r : Nat) (e : Bool) (v : BitVec 32) : Nat :=
  if e && 0x60000000 ≤ v.toInt then refBase (r - 8) else refBase r

/-- `down(r, e, v)` (42_adsr.md R182); `max(r - 12 + ofs, 0)` is the truncated subtraction. -/
def refDown (r : Nat) (e : Bool) (v : BitVec 32) : Nat :=
  if e then refBase (r + refExpOfs (v.extractLsb' 28 3).toNat - 12) else refBase r

/-- `ATK_STEP` (42_adsr.md R183). -/
def refAtkStep (rate : BitVec 7) (mode : Bool) (v : BitVec 32) : Nat := refUp rate.toNat mode v

/-- `DEC_STEP` (42_adsr.md R184). -/
def refDecStep (rate : BitVec 4) (v : BitVec 32) : Nat := refDown (rate.toNat * 8 + 7) true v

/-- `SUS_STEP` (42_adsr.md R185). -/
def refSusStep (rate : BitVec 7) (mode : BitVec 3) (v : BitVec 32) : Nat :=
  if mode.getLsbD 1 then refDown rate.toNat (mode.getLsbD 2) v else refUp rate.toNat (mode.getLsbD 2) v

/-- `REL_STEP` (42_adsr.md R186). -/
def refRelStep (rate : BitVec 5) (mode : Bool) (v : BitVec 32) : Nat := refDown (rate.toNat * 4 + 3) mode v

/-- `SLIDE_DELTA` (43_volume_mixer.md R194). -/
def refSlideDelta (exp dec : Bool) (inc : BitVec 7) (v : Half) : Nat :=
  if inc = 0#7 then 0
  else if !exp then inc.toNat
  else if !dec then (if 0x6000 ≤ v.toInt then inc.toNat / 4 else inc.toNat)
  else inc.toNat * v.toInt.natAbs / 0x8000 + 1

/-- `NOISE_STEP` (41_voice_pipeline.md R159). -/
def refNoiseStep (s : BitVec 24) : BitVec 24 :=
  s.extractLsb' 0 23 ++ BitVec.ofBool (s.getLsbD 23 ^^ s.getLsbD 22 ^^ s.getLsbD 21 ^^ s.getLsbD 16)

/-- `NOISE_OUT` (41_voice_pipeline.md R160). -/
def refNoiseOut (s : BitVec 24) : Half := s.extractLsb' 0 16

/-- `REVERB_LPF` (44_reverb.md R226). -/
def refReverbLpf (held cur : Half) : Half := BitVec.ofInt 16 ((held.toInt + cur.toInt) / 2)

theorem refBase_le_cap (r : Nat) : refBase r ≤ 0x3fffffff := Nat.min_le_right _ _

/-- The last row of the table of 40_adpcm_cache.md R123 (90_conflicts.md C5). -/
theorem refCoef_beyond (p : BitVec 4) (h : 5 ≤ p.toNat) : refCoef p = (0, 0) := by
  unfold refCoef
  split <;> first | rfl | omega

theorem refAtkStep_fastest_eq (m : Bool) (v : BitVec 32) : refAtkStep 0x7f#7 m v = 0x3fffffff := by
  unfold refAtkStep refUp
  split <;> decide

theorem refAtkStep_le_cap (r : BitVec 7) (m : Bool) (v : BitVec 32) : refAtkStep r m v ≤ 0x3fffffff := by
  unfold refAtkStep refUp
  split <;> exact refBase_le_cap _

end Sys2Proof.Machine

namespace Sys2Proof

/-- The reference instance (00_scope.md R4, R5). -/
def Config.reference : Config where
  dynLine := 0x2800
  interp := .nearest
  adsrSeed := 1#16
  noiseSeed := 1#24
  outRingLen := 0x200
  memInit := fun _ => 0#16
  adpcmCoef := Machine.refCoef
  atkStep := Machine.refAtkStep
  atkStep_fastest_pos := fun m v => by rw [Machine.refAtkStep_fastest_eq]; decide
  atkStep_fastest := fun r m v => by
    rw [Machine.refAtkStep_fastest_eq]; exact Machine.refAtkStep_le_cap r m v
  decStep := Machine.refDecStep
  susStep := Machine.refSusStep
  relStep := Machine.refRelStep
  slideDelta := Machine.refSlideDelta
  noiseStep := Machine.refNoiseStep
  noiseOut := Machine.refNoiseOut
  reverbLpf := Machine.refReverbLpf
  reverbLpf_silence := by decide

end Sys2Proof
end

