-- ==== Sys2Proof/Tests/Slice0.lean ====
section
/-! SUPPORT. The model's own tests, all `theorem test_…` on fixed values, each expected value taken from the spec (the words and
vectors of 95_test_vectors.md, the examples of the rules, or worked out from the encoding by hand); and `theorem witness_…`, for every
statement with hypotheses a concrete state and operands that meet them. Vectors that depend on an open parameter are evaluated at
`Config.reference`, the instance the spec's vectors use. -/

namespace Sys2Proof.Tests

set_option Elab.async false

open Sys2Proof.Machine

/-! ## Helpers -/

/-- The reset state with core 0 changed. -/
def core0With (f : Core → Core) : State := State.reset.modCore .c0 f

/-- The reset state with one voice of core 0 changed. -/
def voiceWith (v : VoiceId) (f : Voice → Voice) : State := State.reset.modVoice .c0 v f

/-- The state one step after the word is presented. -/
def after (s : State) (w : CmdWord) : State :=
  match step (s.present w) with
  | .next t => t
  | .fault _ => s
  | .refused _ => s

/-- Eight words stored from a word address on. -/
def memory8 (a : Nat) (ws : List Half) : Memory :=
  (ws.zipIdx).foldl (fun m p => Memory.setWord Config.reference m (BitVec.ofNat 20 (a + p.2)) p.1) []

/-- The decode of eight words at 0x3000, as integers. -/
def decoded (ws : List Half) (prev1 prev2 : Int) : List Int :=
  (decodeBlock Config.reference (memory8 0x3000 ws) 0x3000#20 (toI16 prev1) (toI16 prev2)).toList.map BitVec.toInt

/-! ## Well-formedness: the one check, `RREG` of a reserved index (10_state.md R53) -/

theorem test_wellFormed_refuses : ∀ r ∈ [14, 15, 0x17E, 0x17F, 0x1A6, 0x1BF, 0x1FA, 0x1FF],
    (Instr.rreg .c0 (BitVec.ofNat 9 r)).wellFormed = false := by decide

theorem test_wellFormed_admits : ∀ r ∈ [0, 13, 0x17D, 0x180, 0x1A5, 0x1C0, 0x1F9],
    (Instr.rreg .c1 (BitVec.ofNat 9 r)).wellFormed = true := by decide

/-! ## Decoding: every constructor, each word written out as op << 28 | core << 25 | reg << 16 | data (30_encoding.md R92) -/

/-- The 14 voice registers: index v*16 + k (10_state.md R42). -/
theorem test_decode_voice : ∀ p ∈ ([
    (0x10008001#32, .wregVVoll .c0 0 0x8001#16), (0x13717FFE#32, .wregVVolr .c1 23 0x7FFE#16),
    (0x10721234#32, .wregVPitch .c0 7 0x1234#16), (0x1303FFFF#32, .wregVAdsr1 .c1 16 0xFFFF#16),
    (0x1004A55A#32, .wregVAdsr2 .c0 0 0xA55A#16), (0x13758001#32, .wregVEnvx .c1 23 0x8001#16),
    (0x10767FFE#32, .wregVSsaHi .c0 7 0x7FFE#16), (0x13071234#32, .wregVSsaLo .c1 16 0x1234#16),
    (0x1008FFFF#32, .wregVLsaHi .c0 0 0xFFFF#16), (0x1379A55A#32, .wregVLsaLo .c1 23 0xA55A#16),
    (0x107A8001#32, .wregVNaxHi .c0 7 0x8001#16), (0x130B7FFE#32, .wregVNaxLo .c1 16 0x7FFE#16),
    (0x100C1234#32, .wregVVolxl .c0 0 0x1234#16), (0x137DFFFF#32, .wregVVolxr .c1 23 0xFFFF#16)] : List (CmdWord × Instr)), decode p.1 = .ok p.2 := by decide +kernel

/-- The 38 core globals: 0x180 on (10_state.md R47). -/
theorem test_decode_core : ∀ p ∈ ([
    (0x13808001#32, .wregPmonLo .c1 0x8001#16), (0x11817FFE#32, .wregPmonHi .c0 0x7FFE#16),
    (0x13821234#32, .wregNonLo .c1 0x1234#16), (0x1183FFFF#32, .wregNonHi .c0 0xFFFF#16),
    (0x1384A55A#32, .wregVmixlLo .c1 0xA55A#16), (0x11858001#32, .wregVmixlHi .c0 0x8001#16),
    (0x13867FFE#32, .wregVmixrLo .c1 0x7FFE#16), (0x11871234#32, .wregVmixrHi .c0 0x1234#16),
    (0x1388FFFF#32, .wregVmixelLo .c1 0xFFFF#16), (0x1189A55A#32, .wregVmixelHi .c0 0xA55A#16),
    (0x138A8001#32, .wregVmixerLo .c1 0x8001#16), (0x118B7FFE#32, .wregVmixerHi .c0 0x7FFE#16),
    (0x138C1234#32, .wregMmix .c1 0x1234#16), (0x118DFFFF#32, .wregAttr .c0 0xFFFF#16),
    (0x138EA55A#32, .wregIrqaHi .c1 0xA55A#16), (0x118F8001#32, .wregIrqaLo .c0 0x8001#16),
    (0x13907FFE#32, .wregKonLo .c1 0x7FFE#16), (0x11911234#32, .wregKonHi .c0 0x1234#16),
    (0x1392FFFF#32, .wregKoffLo .c1 0xFFFF#16), (0x1193A55A#32, .wregKoffHi .c0 0xA55A#16),
    (0x13948001#32, .wregTsaHi .c1 0x8001#16), (0x11957FFE#32, .wregTsaLo .c0 0x7FFE#16),
    (0x13961234#32, .wregData .c1 0x1234#16), (0x1197FFFF#32, .wregStat .c0 0xFFFF#16),
    (0x1398A55A#32, .wregEndxLo .c1 0xA55A#16), (0x11998001#32, .wregEndxHi .c0 0x8001#16),
    (0x139A7FFE#32, .wregMvoll .c1 0x7FFE#16), (0x119B1234#32, .wregMvolr .c0 0x1234#16),
    (0x139CFFFF#32, .wregEvoll .c1 0xFFFF#16), (0x119DA55A#32, .wregEvolr .c0 0xA55A#16),
    (0x139E8001#32, .wregIvoll .c1 0x8001#16), (0x119F7FFE#32, .wregIvolr .c0 0x7FFE#16),
    (0x13A01234#32, .wregMvolxl .c1 0x1234#16), (0x11A1FFFF#32, .wregMvolxr .c0 0xFFFF#16),
    (0x13A2A55A#32, .wregEsaHi .c1 0xA55A#16), (0x11A38001#32, .wregEsaLo .c0 0x8001#16),
    (0x13A47FFE#32, .wregEeaHi .c1 0x7FFE#16), (0x11A51234#32, .wregEeaLo .c0 0x1234#16)] : List (CmdWord × Instr)), decode p.1 = .ok p.2 := by decide +kernel

/-- The 48 reverb offset halves: 0x1C0 + 2k and 0x1C1 + 2k (10_state.md R51). -/
theorem test_decode_offset : ∀ p ∈ ([
    (0x13C08001#32, .wregIirSrcA0Hi .c1 0x8001#16), (0x11C17FFE#32, .wregIirSrcA0Lo .c0 0x7FFE#16),
    (0x13C21234#32, .wregIirSrcA1Hi .c1 0x1234#16), (0x11C3FFFF#32, .wregIirSrcA1Lo .c0 0xFFFF#16),
    (0x13C4A55A#32, .wregIirSrcB0Hi .c1 0xA55A#16), (0x11C58001#32, .wregIirSrcB0Lo .c0 0x8001#16),
    (0x13C67FFE#32, .wregIirSrcB1Hi .c1 0x7FFE#16), (0x11C71234#32, .wregIirSrcB1Lo .c0 0x1234#16),
    (0x13C8FFFF#32, .wregIirDestA0Hi .c1 0xFFFF#16), (0x11C9A55A#32, .wregIirDestA0Lo .c0 0xA55A#16),
    (0x13CA8001#32, .wregIirDestA1Hi .c1 0x8001#16), (0x11CB7FFE#32, .wregIirDestA1Lo .c0 0x7FFE#16),
    (0x13CC1234#32, .wregIirDestB0Hi .c1 0x1234#16), (0x11CDFFFF#32, .wregIirDestB0Lo .c0 0xFFFF#16),
    (0x13CEA55A#32, .wregIirDestB1Hi .c1 0xA55A#16), (0x11CF8001#32, .wregIirDestB1Lo .c0 0x8001#16),
    (0x13D07FFE#32, .wregAccSrcA0Hi .c1 0x7FFE#16), (0x11D11234#32, .wregAccSrcA0Lo .c0 0x1234#16),
    (0x13D2FFFF#32, .wregAccSrcA1Hi .c1 0xFFFF#16), (0x11D3A55A#32, .wregAccSrcA1Lo .c0 0xA55A#16),
    (0x13D48001#32, .wregAccSrcB0Hi .c1 0x8001#16), (0x11D57FFE#32, .wregAccSrcB0Lo .c0 0x7FFE#16),
    (0x13D61234#32, .wregAccSrcB1Hi .c1 0x1234#16), (0x11D7FFFF#32, .wregAccSrcB1Lo .c0 0xFFFF#16),
    (0x13D8A55A#32, .wregAccSrcC0Hi .c1 0xA55A#16), (0x11D98001#32, .wregAccSrcC0Lo .c0 0x8001#16),
    (0x13DA7FFE#32, .wregAccSrcC1Hi .c1 0x7FFE#16), (0x11DB1234#32, .wregAccSrcC1Lo .c0 0x1234#16),
    (0x13DCFFFF#32, .wregAccSrcD0Hi .c1 0xFFFF#16), (0x11DDA55A#32, .wregAccSrcD0Lo .c0 0xA55A#16),
    (0x13DE8001#32, .wregAccSrcD1Hi .c1 0x8001#16), (0x11DF7FFE#32, .wregAccSrcD1Lo .c0 0x7FFE#16),
    (0x13E01234#32, .wregFbSrcA0Hi .c1 0x1234#16), (0x11E1FFFF#32, .wregFbSrcA0Lo .c0 0xFFFF#16),
    (0x13E2A55A#32, .wregFbSrcA1Hi .c1 0xA55A#16), (0x11E38001#32, .wregFbSrcA1Lo .c0 0x8001#16),
    (0x13E47FFE#32, .wregFbSrcB0Hi .c1 0x7FFE#16), (0x11E51234#32, .wregFbSrcB0Lo .c0 0x1234#16),
    (0x13E6FFFF#32, .wregFbSrcB1Hi .c1 0xFFFF#16), (0x11E7A55A#32, .wregFbSrcB1Lo .c0 0xA55A#16),
    (0x13E88001#32, .wregMixDestA0Hi .c1 0x8001#16), (0x11E97FFE#32, .wregMixDestA0Lo .c0 0x7FFE#16),
    (0x13EA1234#32, .wregMixDestA1Hi .c1 0x1234#16), (0x11EBFFFF#32, .wregMixDestA1Lo .c0 0xFFFF#16),
    (0x13ECA55A#32, .wregMixDestB0Hi .c1 0xA55A#16), (0x11ED8001#32, .wregMixDestB0Lo .c0 0x8001#16),
    (0x13EE7FFE#32, .wregMixDestB1Hi .c1 0x7FFE#16), (0x11EF1234#32, .wregMixDestB1Lo .c0 0x1234#16)] : List (CmdWord × Instr)), decode p.1 = .ok p.2 := by decide +kernel

/-- The 10 reverb coefficients: 0x1F0 on (10_state.md R52). -/
theorem test_decode_coefficient : ∀ p ∈ ([
    (0x13F08001#32, .wregIirAlpha .c1 0x8001#16), (0x11F17FFE#32, .wregIirCoef .c0 0x7FFE#16),
    (0x13F21234#32, .wregInCoefL .c1 0x1234#16), (0x11F3FFFF#32, .wregInCoefR .c0 0xFFFF#16),
    (0x13F4A55A#32, .wregAccCoefA .c1 0xA55A#16), (0x11F58001#32, .wregAccCoefB .c0 0x8001#16),
    (0x13F67FFE#32, .wregAccCoefC .c1 0x7FFE#16), (0x11F71234#32, .wregAccCoefD .c0 0x1234#16),
    (0x13F8FFFF#32, .wregFbAlpha .c1 0xFFFF#16), (0x11F9A55A#32, .wregFbX .c0 0xA55A#16)] : List (CmdWord × Instr)), decode p.1 = .ok p.2 := by decide +kernel

/-- The commands beside `WREG`, ignored bits set among them (30_encoding.md R92, R98; vectors of 95_test_vectors.md 2.1). -/
theorem test_decode_commands : ∀ p ∈ ([
    (0x00000000#32, .nop), (0x0FFFFFFF#32, .nop),
    (0x22550000#32, .rreg .c1 0x055#9), (0x21F9FFFF#32, .rreg .c0 0x1F9#9),
    (0x32000003#32, .dmaw .c1 3#16), (0x3000FFFF#32, .dmaw .c0 0xFFFF#16),
    (0x40000000#32, .tick), (0x4ABCDEF0#32, .tick),
    (0x50000000#32, .reset), (0x5FFFFFFF#32, .reset)] : List (CmdWord × Instr)), decode p.1 = .ok p.2 := by decide +kernel

/-- Illegal words and their codes (vectors EN-3 to EN-11). -/
theorem test_decode_illegal :
    decode 0x60000000#32 = .error .reservedOpcode ∧ decode 0xF0000000#32 = .error .reservedOpcode
      ∧ decode 0x14000000#32 = .error .reservedBits ∧ decode 0x28000000#32 = .error .reservedBits
      ∧ decode 0x30010000#32 = .error .reservedBits ∧ decode 0x100E0000#32 = .error .reservedRegister
      ∧ decode 0x117F1234#32 = .error .reservedRegister ∧ decode 0x11A60000#32 = .error .reservedRegister
      ∧ decode 0x11FA0000#32 = .error .reservedRegister ∧ decode 0x21BF0000#32 = .error .reservedRegister
      ∧ decode 0x23FF0000#32 = .error .reservedRegister ∧ DecodeError.reservedOpcode.code = 1#2
      ∧ DecodeError.reservedBits.code = 2#2 ∧ DecodeError.reservedRegister.code = 3#2 := by decide +kernel

/-! ## One step -/

/-- `wreg c0, V0.VOLL, 0x3fff`: value 0x7ffe, fixed (R255, R256). -/
theorem test_step_voll : ((after State.reset 0x10003FFF#32).voice .c0 0).volL.value = 0x7FFE#16 := by decide +kernel

/-- d = 0x4000 is -0x8000; d = 0x8040 slides up by 64 (R256). -/
theorem test_writeSlide : (writeSlide 0x4000#16 {}).value.toInt = -0x8000
    ∧ writeSlide 0x8040#16 {} = { value := 0#16, fixed := false, exp := false, dec := false, neg := false, increment := 64#7 } := by
  decide

/-- `wreg c0, V0.ADSR2, 0x5FDF`: sustain mode 2, sustain rate 0x7F, release linear, release rate 31 (R259). -/
theorem test_step_adsr2 : ((after State.reset 0x10045FDF#32).voice .c0 0).adsr =
    { sustainMode := 2#3, sustainRate := 0x7F#7, releaseMode := false, releaseRate := 31#5 } := by decide +kernel

/-- `wreg c0, V0.ADSR1, 0x7F0F`: attack linear rate 0x7F, decay rate 0, sustain level 15 (R258). -/
theorem test_step_adsr1 : ((after State.reset 0x10037F0F#32).voice .c0 0).adsr =
    { attackMode := false, attackRate := 0x7F#7, decayRate := 0#4, sustainLevel := 15#4 } := by decide +kernel

/-- Both halves of an address (R260). -/
theorem test_step_ssa : ((after (after State.reset 0x1006000F#32) 0x10073000#32).voice .c0 0).startAddr = 0xF3000#20 := by
  decide +kernel

/-- A low mask half leaves voices 16..23 alone (R263). -/
theorem test_step_pmon : ((after (after State.reset 0x118100FF#32) 0x11800002#32).core .c0).pmon = 0xFF0002#24 := by decide +kernel

/-- Writing `TSA_LO` reloads `tda` from all of `tsa` (R276). -/
theorem test_step_tsa : ((after (core0With fun k => { k with tsa := 0xF0000#20, tda := 0x12345#20 }) 0x11954000#32).core .c0).tda
    = 0xF4000#20 := by decide +kernel

/-- `ATTR` with bit 1 = 0 clears the pending interrupt (R270). -/
theorem test_step_attr : ((after (core0With fun k => { k with irqPending := true, irqEn := true }) 0x118D0001#32).core .c0).irqPending
    = false := by decide +kernel

/-- `kon c0, 0` (R152, R271): Attack, from the start address, ENDX cleared. -/
theorem test_step_kon :
    let t := after ((voiceWith 0 fun vc => { vc with startAddr := 0x3000#20 }).modCore .c0 fun k => { k with endx := 3#24 }) 0x11900001#32
    (t.voice .c0 0).adsr.phase = .attack ∧ (t.voice .c0 0).nextAddr = 0x3000#20 ∧ (t.core .c0).endx = 2#24 := by decide +kernel

/-- `KOFF_HI` bit 7 is voice 23 (R274, R153). -/
theorem test_step_koff : ((after (voiceWith 23 fun vc => { vc with adsr := { vc.adsr with phase := .sustain } }) 0x11930080#32).voice
    .c0 23).adsr.releasing = true := by decide +kernel

/-- A write to `ENDX_HI` clears all 24 bits (R277). -/
theorem test_step_endx : ((after (core0With fun k => { k with endx := 0xFFFFFF#24 }) 0x11990000#32).core .c0).endx = 0#24 := by
  decide +kernel

/-- `DATA` at the last address: `tda` wraps (R281, 20_memory.md R63). -/
theorem test_step_data : ((after (core0With fun k => { k with tda := 0xFFFFF#20 }) 0x1196ABCD#32).core .c0).tda = 0#20 := by
  decide +kernel

/-- `wreg c0, MIX_DEST_A0_LO, 2`; `wreg c0, FB_ALPHA, 0x4000` (R280, R282). -/
theorem test_step_reverb : ((after State.reset 0x11E90002#32).core .c0).offset .mixDestA0 = 2#20
    ∧ ((after State.reset 0x11F84000#32).core .c0).coefficient .fbAlpha = 0x4000#16 := by decide +kernel

/-- EN-12: the first error wins; both `STAT` read 0x0032. -/
theorem test_step_stat : (after (after (after State.reset 0x11A60000#32) 0x60000000#32) 0x21970000#32).rspData = 0x0032#16
    ∧ (after (after (after State.reset 0x11A60000#32) 0x60000000#32) 0x23970000#32).rspData = 0x0032#16 := by decide +kernel

/-- EN-13: a payload word that looks like `RESET` is payload; the running address and the count move. -/
theorem test_step_payload :
    let s := { (core0With fun k => { k with tda := 0x4000#20 }) with burstRemaining := 2#16 }
    ((after s 0x5000FFFF#32).core .c0).tda = 0x4001#20 ∧ (after s 0x5000FFFF#32).burstRemaining = 1#16 := by decide +kernel

/-- `dmaw c1` with three words (R284). -/
theorem test_step_dmaw : (after State.reset 0x32000003#32).burstRemaining = 3#16
    ∧ (after State.reset 0x32000003#32).burstCore = .c1 := by decide +kernel

/-- `RESET` sets the tick counter to 0 and keeps memory (R252). -/
theorem test_step_reset : (after { State.reset with tick := 7#32, mem := [(6, 9#8)] } 0x50000000#32).tick = 0#32
    ∧ (after { State.reset with tick := 7#32, mem := [(6, 9#8)] } 0x50000000#32).mem = [(6, 9#8)] := by decide +kernel

/-- `TICK` on the reset state: the counter advances (R290). -/
theorem test_step_tick : ∃ t, exec .tick State.reset = .next t ∧ t.tick = 1#32 := ⟨_, exec_tick _, (globals_runTick _ _).1⟩

/-! ## Vectors of the block decoder (95_test_vectors.md 2.2) -/

theorem test_decode_A2 : decoded [0x0000#16, 0x3210#16, 0x7654#16, 0xBA98#16, 0xFEDC#16, 0#16, 0#16, 0#16] 0 0 =
    [0, 4096, 8192, 12288, 16384, 20480, 24576, 28672, -32768, -28672, -24576, -20480, -16384, -12288, -8192, -4096,
      0, 0, 0, 0, 0, 0, 0, 0, 0, 0, 0, 0] := by decide +kernel

theorem test_decode_A6 : decoded [0x0010#16, 0#16, 0#16, 0#16, 0#16, 0#16, 0#16, 0#16] 1000 0 =
    [937, 878, 823, 771, 722, 676, 633, 593, 555, 520, 487, 456, 427, 400, 375, 351, 329, 308, 288, 270, 253, 237, 222, 208, 195,
      182, 170, 159] := by decide +kernel

theorem test_decode_A9 : decoded [0x0024#16, 0x0001#16, 0x000F#16, 0#16, 0#16, 0#16, 0#16, 0#16] 1000 (-500) =
    [2459, 3606, 4481, 5121, 5304, 5369, 5337, 5227, 5055, 4836, 4582, 4304, 4010, 3708, 3404, 3103, 2809, 2526, 2256, 2001, 1762,
      1540, 1335, 1147, 976, 821, 682, 558] := by decide +kernel

theorem test_decode_A7_A8 : decoded [0x0010#16, 0x7777#16, 0x7777#16, 0x7777#16, 0x7777#16, 0x7777#16, 0x7777#16, 0x7777#16] 0 0 =
      28672 :: List.replicate 27 32767
    ∧ decoded [0x0010#16, 0x8888#16, 0x8888#16, 0x8888#16, 0x8888#16, 0x8888#16, 0x8888#16, 0x8888#16] 0 0 =
      List.replicate 28 (-32768) := by decide +kernel

/-! ## The cache (95_test_vectors.md CA-5, CA-6) -/

theorem test_invalidateRange : let k : Cache := [(0x5FF, zeroBlock), (0x600, zeroBlock), (0x601, zeroBlock), (0x602, zeroBlock)]
    (k.invalidateRange 0x3007 0x3009).map Prod.fst = [0x5FF, 0x602] ∧ k.invalidateRange 0x3008 0x3008 = k := by decide +kernel

/-! ## Interpolation and noise (41_voice_pipeline.md R156 to R160; 95_test_vectors.md 2.6, 2.8) -/

theorem test_interpolation : linear 100 300 0x800 = 200 ∧ linear 0 (-1) 1 = -1 ∧ linear 32767 (-32768) 0xFFF = -32753
    ∧ cubic 0 0 4096 8192 0x800 = 1792 ∧ cubic 100 200 300 400 0xFFF = 299 ∧ cubic 0 32767 (-32768) 0 0x400 = 20991
    ∧ cubic (-32768) 32767 32767 (-32768) 0x800 = 40958 ∧ cubic 32767 (-32768) (-32768) 32767 0x800 = -40960 := by decide +kernel

theorem test_noise : refNoiseStep 0x010000#24 = 0x020001#24 ∧ refNoiseStep 0x800000#24 = 1#24 ∧ refNoiseStep 0xE10000#24 = 0xC20000#24
    ∧ refNoiseStep 0x123456#24 = 0x2468AC#24 ∧ (refNoiseOut 0x12FFFF#24).toInt = -1 := by decide +kernel

/-! ## The envelope (95_test_vectors.md 2.9, AD-1, AD-6, AD-9) -/

theorem test_attack : adsrNext Config.reference { value := 1#32, phase := .attack, attackRate := 0x7F#7, sustainLevel := 15#4 } =
      some { value := 0x40000000#32, phase := .attack, attackRate := 0x7F#7, sustainLevel := 15#4 }
    ∧ adsrNext Config.reference { value := 0x40000000#32, phase := .attack, attackRate := 0x7F#7, sustainLevel := 15#4 } =
      some { value := 0x7FFFFFFF#32, phase := .decay, attackRate := 0x7F#7, sustainLevel := 15#4 } := by decide +kernel

theorem test_decay : adsrNext Config.reference { value := 0x7FFFFFFF#32, phase := .decay, sustainLevel := 15#4 } =
      some { value := 0x7FFFFFF1#32, phase := .sustain, sustainLevel := 15#4 }
    ∧ adsrNext Config.reference { value := 0x40000000#32, phase := .decay, decayRate := 15#4 } =
      some { value := 1#32, phase := .sustain, decayRate := 15#4 } := by decide +kernel

theorem test_sustain : adsrNext Config.reference { value := 0x7FFFFFFD#32, phase := .sustain } =
      some { value := 0x7FFFFFFF#32, phase := .sustain }
    ∧ adsrNext Config.reference { value := 0x0FFFFFF1#32, phase := .sustain, sustainMode := 2#3, sustainRate := 0x6F#7 } = none := by
  decide +kernel

theorem test_release : adsrNext Config.reference { value := 0x7FFFFFFF#32, phase := .sustain, releaseRate := 31#5, releasing := true } =
      some { value := 0x40000000#32, phase := .release, releaseRate := 31#5, releasing := true }
    ∧ adsrNext Config.reference { value := 1#32, phase := .release, releaseRate := 31#5 } = none := by decide +kernel

/-! ## Volumes and the reverb (43_volume_mixer.md R195, R196; 44_reverb.md R225, R229, R232) -/

theorem test_volumes : envelope 4096 0x40000000#32 = 2048 ∧ envelope (-1) 1#32 = -1
    ∧ voiceVolume 2048 { value := 0x7FFE#16 } = 2047 := by decide +kernel

theorem test_reverb_address : ({ esa := 0x4003#20, eea := 0x4000#20, revCursor := 3#20, off := Vector.replicate 24 6#20 } : Core).tapAddr .accSrcA0 0 = 0x4001#20 := by decide +kernel

theorem test_fbAlphaFlipped : ({ coef := Vector.replicate 10 0x4000#16 } : Core).fbAlphaFlipped = -16384
    ∧ ({} : Core).fbAlphaFlipped = -32768 := by decide +kernel

/-- N12b, tick 1: swapped bounds, all offsets and coefficients 0, a non-zero buffer. -/
theorem test_reverb_N12b :
    let s : State := { resetWith Config.reference with
      tick := 1#32, mem := memory8 0x9000 [0x03E8#16, 0xFC18#16, 3#16, 0xFFFD#16, 0x7FFF#16, 0x8000#16, 1#16, 0#16]
      core1 := { resetCore 1#24 with esa := 0x9007#20, eea := 0x9000#20 } }
    let t := s.reverbTick Config.reference .c1 ⟨0, 0⟩
    t.2 = ⟨1000, 1000⟩ ∧ (t.1.core .c1).revCursor = 1#20
      ∧ ([0x9000#20, 0x9001#20, 0x9002#20, 0x9007#20].map fun a => (t.1.memRead Config.reference a).toInt) = [500, 1000, 3, 0] := by
  decide +kernel

/-! ## Whole ticks at the reference parameters (V-VOICE-1 tick 0, MIX-3a) -/

/-- A core with the two master volumes at 0x3FFF. -/
def loudCore (gates : BitVec 12) : Core :=
  { resetCore 1#24 with mmix := gates, mvolL := { value := 0x7FFE#16 }, mvolR := { value := 0x7FFE#16 } }

theorem test_tick_voice :
    let s : State := { resetWith Config.reference with
      mem := memory8 0x3000 [0x0100#16, 0x4321#16, 0x8765#16, 0xCBA9#16, 0x0FED#16, 0x4321#16, 0x8765#16, 0xCBA9#16]
      core0 := ({ loudCore 0xC00#12 with vmixDl := 1#24, vmixDr := 1#24 } : Core).modVoice 0 fun vc =>
        { vc with
          nextAddr := 0x3000#20, pitch := 0x1000#16, volL := { value := 0x7FFE#16 }, volR := { value := 0x4000#16 }
          adsr := { value := 1#32, phase := .attack, attackRate := 0x7F#7, sustainLevel := 15#4 } }
      core1 := loudCore 0x00C#12 }
    let t := s.runTick Config.reference
    t.out = ⟨2045#16, 1022#16⟩ ∧ (t.voice .c0 0).lastOutput = 2048#32 ∧ (t.voice .c0 0).nextAddr = 0x3008#20
      ∧ (t.voice .c0 0).blkPos = 1 ∧ t.cache.valid 0x600 = true := by decide +kernel

theorem test_tick_mix :
    let s : State := { resetWith Config.reference with
      core0 := loudCore 0x00C#12
      core1 := { loudCore 0x0CC#12 with ivolL := { value := 0x7FFE#16 }, ivolR := { value := 0x8000#16 } }
      io := { inputs := { extL := 0x7FFF#16, extR := 0x8000#16, snd1L := 0x7FFF#16, snd1R := 0x8000#16 } } }
    (s.runTick Config.reference).out = ⟨32765#16, 1#16⟩ := by decide +kernel

/-! ## Witnesses: hypotheses of the statements, met -/

theorem witness_DecodeOfEncode : (Instr.rreg .c1 0x1F9#9).wellFormed = true := by decide

theorem witness_DecodedWordIsItsEncoding : decode 0x21F9FFFF#32 = .ok (.rreg .c0 0x1F9#9) := by decide +kernel

/-- Reserved numbers at each end of each range. -/
theorem witness_reserved : ∀ r ∈ [14, 15, 0x17E, 0x17F, 0x1A6, 0x1BF, 0x1FA, 0x1FF], ReservedNumber r := by
  unfold ReservedNumber; decide

theorem witness_not_reserved : ∀ r ∈ [0, 13, 0x17D, 0x180, 0x1A5, 0x1C0, 0x1F9], ¬ ReservedNumber r := by
  unfold ReservedNumber; decide

/-- A word at the edge of each clause of `DecodeProcedure`, as (op, z, reg). -/
theorem witness_DecodeProcedure : ∀ p ∈ ([
    (0x0FFFFFFF, 0, 3, 511), (0x4FFFFFFF, 4, 3, 511), (0x5FFFFFFF, 5, 3, 511), (0x60000000, 6, 0, 0), (0xFFFFFFFF, 15, 3, 511),
    (0x14000000, 1, 1, 0), (0x3C000000, 3, 3, 0), (0x30010000, 3, 0, 1), (0x31FF0000, 3, 0, 511), (0x3200FFFF, 3, 0, 0),
    (0x100E0000, 1, 0, 14), (0x117F0000, 1, 0, 0x17F), (0x11A60000, 1, 0, 0x1A6), (0x21BF0000, 2, 0, 0x1BF),
    (0x21FA0000, 2, 0, 0x1FA), (0x23FF0000, 2, 0, 0x1FF), (0x117D0000, 1, 0, 0x17D), (0x11800000, 1, 0, 0x180),
    (0x11A50000, 1, 0, 0x1A5), (0x11C00000, 1, 0, 0x1C0), (0x200D0000, 2, 0, 13), (0x23F90000, 2, 0, 0x1F9),
    (0x10000000, 1, 0, 0), (0x13EFFFFF, 1, 0, 0x1EF), (0x11F00000, 1, 0, 0x1F0), (0x13F9FFFF, 1, 0, 0x1F9)]
      : List (BitVec 32 × Nat × Nat × Nat)),
    (p.1.toNat / 2 ^ 28, p.1.toNat / 2 ^ 26 % 4, p.1.toNat / 2 ^ 16 % 512) = p.2 := by decide +kernel

theorem witness_StepRunsDecodedCommand : (State.reset.present 0x118C0C00#32).io.pending = .word 0x118C0C00#32 {} :: []
    ∧ (State.reset.present 0x118C0C00#32).burstRemaining = 0#16 ∧ decode 0x118C0C00#32 = .ok (.wregMmix .c0 0x0C00#16) := by
  decide +kernel

theorem witness_StepFlagsIllegalWord : (State.reset.present 0x11A60000#32).io.pending = .word 0x11A60000#32 {} :: []
    ∧ (State.reset.present 0x11A60000#32).burstRemaining = 0#16 ∧ decode 0x11A60000#32 = .error .reservedRegister := by
  decide +kernel

/-- The reset state inside a burst of two words. -/
def inBurst : State := { State.reset with burstRemaining := 2#16 }

theorem witness_StepTakesPayloadWord : (inBurst.present 0x5000FFFF#32).io.pending = .word 0x5000FFFF#32 {} :: []
    ∧ (inBurst.present 0x5000FFFF#32).burstRemaining ≠ 0#16 ∧ Memory.wf config (inBurst.present 0x5000FFFF#32).mem :=
  ⟨rfl, by decide, Memory.wf_nil _⟩

theorem witness_BurstIsThatManyHostWrites : [0xF000ABCD#32, 0x5000FFFF#32].length = inBurst.burstRemaining.toNat := rfl

theorem witness_StepResetPort : ({ inBurst with io := { pending := [.rst] } } : State).io.pending = .rst :: [] := rfl

theorem witness_DataWrite : Memory.wf config State.reset.mem := Memory.wf_nil _

theorem witness_WregTouchesItsCoreOnly : CoreReg.stat ≠ .data := by decide

/-- Every number of the table of R283, at each end of the voices, and numbers on either side of them that read the shadow: none is
reserved; which are live. -/
theorem witness_RregReads : (∀ r ∈ [0x000, 0x005, 0x008, 0x009, 0x00A, 0x00B, 0x00C, 0x00D, 0x175, 0x178, 0x179, 0x17A, 0x17B, 0x17C,
      0x17D, 0x180, 0x196, 0x197, 0x198, 0x199, 0x19A, 0x19F, 0x1A0, 0x1A1, 0x1A2, 0x1A5, 0x1C0, 0x1EF, 0x1F0, 0x1F9],
      ¬ ReservedNumber r)
    ∧ (∀ r ∈ [0x005, 0x00D, 0x175, 0x17D, 0x197, 0x198, 0x199, 0x1A0, 0x1A1], LiveNumber r)
    ∧ (∀ r ∈ [0x000, 0x004, 0x006, 0x007, 0x177, 0x180, 0x196, 0x19A, 0x19F, 0x1A2, 0x1F9], ¬ LiveNumber r) := by
  unfold ReservedNumber LiveNumber; decide +kernel

theorem witness_RregReads_reserved : ReservedNumber (0x1A6#9).toNat ∧ ReservedNumber (0x1FF#9).toNat :=
  ⟨witness_reserved 0x1A6 (by decide), witness_reserved 0x1FF (by decide)⟩

theorem witness_ClosedGatesPushSilence : State.reset.core1.mmix = 0#12 ∧ State.reset.core1.fxEn = false := ⟨rfl, rfl⟩

/-- A state that meets the invariant, with a `TICK` on the port: the state after reset, a voice of it sounding. -/
def soundingState : State :=
  (voiceWith 3 fun vc => { vc with adsr := { vc.adsr with phase := .sustain, value := 0x7FFFFFFF#32 }, pitch := 0x1000#16 }).present
    0x40000000#32

theorem witness_EveryStepKeepsInvariant : soundingState.Inv config ∧ ∃ t, step soundingState = .next t := by
  have hk : ∀ c, soundingState.core c = if c = .c0 then (resetCore config.noiseSeed).modVoice 3 fun vc =>
      { vc with adsr := { vc.adsr with phase := .sustain, value := 0x7FFFFFFF#32 }, pitch := 0x1000#16 }
      else resetCore config.noiseSeed := fun c => by cases c <;> rfl
  have hr : (resetCore config.noiseSeed).Ok config :=
    ⟨fun v => by rw [show (resetCore config.noiseSeed).voice v = {} by simp [resetCore, Core.voice]]; exact Voice.ok_reset,
      config.outRingLen_pos, fun r _ => by simp [resetCore]⟩
  refine ⟨⟨Memory.wf_nil _, ⟨List.Pairwise.nil, fun _ h => (by cases h), fun _ h => (by cases h)⟩, fun c => ?_⟩, _, rfl⟩
  rw [hk]
  split
  · refine hr.modVoice 3 ?_
    rw [show (resetCore config.noiseSeed).voice 3 = {} by simp [resetCore, Core.voice]]
    exact ⟨by decide, fun h => (by cases h), by decide, inI16_zero, inI16_zero, inI16_zero, inI16_zero⟩
  · exact hr

/-- Core 0 with its interrupt pending: an `ATTR` write, `RESET` and `rst` clear it. -/
def irqState : State := core0With fun k => { k with irqPending := true, irqEn := true }

theorem witness_InterruptClearedOnlyByAttrOrReset : (irqState.core .c0).irqPending = true
    ∧ ((after irqState 0x118D0001#32).core .c0).irqPending = false
    ∧ ((after irqState 0x50000000#32).core .c0).irqPending = false
    ∧ ∃ t, step { irqState with io := { pending := [.rst] } } = .next t ∧ (t.core .c0).irqPending = false :=
  ⟨rfl, by decide +kernel, by decide +kernel, _, rfl, rfl⟩

/-- Core 0 with all ENDX bits set: both `ENDX` writes and the key-on of voices 0 and 23 clear a bit. -/
def endxState : State := core0With fun k => { k with endx := 0xFFFFFF#24 }

theorem witness_EndxClearedOnlyByKeyOnWriteOrReset : (∀ v, maskBit (endxState.core .c0).endx v = true)
    ∧ maskBit ((after endxState 0x11980000#32).core .c0).endx 23 = false
    ∧ maskBit ((after endxState 0x11990000#32).core .c0).endx 0 = false
    ∧ maskBit ((after endxState 0x11900001#32).core .c0).endx 0 = false
    ∧ maskBit ((after endxState 0x11910080#32).core .c0).endx 23 = false
    ∧ maskBit ((after endxState 0x50000000#32).core .c0).endx 0 = false :=
  ⟨by decide +kernel, by decide +kernel, by decide +kernel, by decide +kernel, by decide +kernel, by decide +kernel⟩

theorem witness_ErrorLatchClearedOnlyByReset : (after State.reset 0x11A60000#32).cmdErr = true
    ∧ (after (after State.reset 0x11A60000#32) 0x00000000#32).cmdErr = true
    ∧ (after (after State.reset 0x11A60000#32) 0x50000000#32).cmdErr = false := by decide +kernel

/-- Byte 0 holds 1; core 0's running address is 0: a `DATA` write of 0 and a payload word of 0 both change it. -/
def byteState : State := { State.reset with mem := [(0, 1#8)] }

theorem witness_MemoryWritersAreFour : byteState.readByte 0 = 1#8
    ∧ (∃ t, step (byteState.present 0x11960000#32) = .next t ∧ t.readByte 0 = 0#8)
    ∧ (∃ t, step (({ byteState with burstRemaining := 1#16 } : State).present 0#32) = .next t ∧ t.readByte 0 = 0#8) :=
  have h : Memory.byte config (Memory.setWord config [(0, 1#8)] 0#20 0#16) (2 * (0#20).toNat) = (0#16).extractLsb' 0 8 :=
    Memory.byte_setWord_low (List.pairwise_singleton _ _) _ _
  ⟨rfl, ⟨_, rfl, h⟩, ⟨_, rfl, h⟩⟩

theorem witness_levels : ∀ x ∈ [0#32, 1#32, 0x7FFFFFFF#32], 0 ≤ x.toInt := by
  simp only [List.forall_mem_cons]
  exact ⟨by decide, by decide, by decide, by simp⟩

/-- Every clause of `EnvelopeStep`: the level 0 and the level 0x7FFFFFFF, each phase, with and without `releasing`; at the
reference parameters both outcomes of each clause occur (the tests of the envelope above). -/
theorem witness_EnvelopeStep : ∀ x ∈ [0#32, 1#32, 0x7FFFFFFF#32], 0 ≤ x.toInt
    ∧ (∃ a : Adsr, a.value = x ∧ a.phase = .attack ∧ a.releasing = false)
    ∧ (∃ a : Adsr, a.value = x ∧ a.phase = .decay ∧ a.releasing = false)
    ∧ (∃ a : Adsr, a.value = x ∧ a.phase = .sustain ∧ a.releasing = false ∧ a.sustainMode.getLsbD 1 = false)
    ∧ (∃ a : Adsr, a.value = x ∧ a.phase = .sustain ∧ a.releasing = false ∧ a.sustainMode.getLsbD 1 = true)
    ∧ (∃ a : Adsr, a.value = x ∧ a.phase = .release)
    ∧ (∃ a : Adsr, a.value = x ∧ a.phase ≠ .off ∧ a.releasing = true)
    ∧ (∃ a : Adsr, a.value = x ∧ a.phase = .off) := fun x hx =>
  ⟨witness_levels x hx, ⟨{ value := x, phase := .attack }, rfl, rfl, rfl⟩, ⟨{ value := x, phase := .decay }, rfl, rfl, rfl⟩,
    ⟨{ value := x, phase := .sustain }, rfl, rfl, rfl, show (0#3).getLsbD 1 = false by decide⟩,
    ⟨{ value := x, phase := .sustain, sustainMode := 2#3 }, rfl, rfl, rfl, show (2#3).getLsbD 1 = true by decide⟩, ⟨{ value := x, phase := .release }, rfl, rfl⟩,
    ⟨{ value := x, phase := .attack, releasing := true }, rfl, (fun h => by cases h), rfl⟩, ⟨{ value := x }, rfl, rfl⟩⟩

/-- The slide examples of 43_volume_mixer.md R193 at the reference parameters: fixed, clamped at the top, clamped at 0, clamped at
the negative bound. -/
theorem witness_VolumeSlideStep :
    slideStep Config.reference { value := 5#16 } = { value := 5#16 }
    ∧ (slideStep Config.reference { value := 0x7FFF#16, fixed := false, increment := 127#7 }).value = 0x7FFF#16
    ∧ (slideStep Config.reference { value := 0#16, fixed := false, dec := true, increment := 127#7 }).value = 0#16
    ∧ (slideStep Config.reference { value := 0x8000#16, fixed := false, dec := true, neg := true, increment := 1#7 }).value = 0x8000#16 := by
  decide +kernel

theorem witness_GetBlockHitAndMiss : State.reset.cache.entry (0x3005 / 8) = none
    ∧ ({ State.reset with cache := [(0x600, zeroBlock)] } : State).cache.entry (0x3005 / 8) = some zeroBlock := by decide +kernel

theorem witness_CacheIsCoherent : Memory.wf Config.reference State.reset.mem ∧ (0x3007#20).toNat / 8 = (0x3000#20).toNat / 8 :=
  ⟨Memory.wf_nil _, by decide⟩

theorem witness_BelowTheLineNeverCached : CacheOk Config.reference State.reset.mem State.reset.cache
    ∧ (0x27FF#20).toNat < Config.reference.dynLine :=
  ⟨⟨List.Pairwise.nil, fun _ h => (by cases h), fun _ h => (by cases h)⟩, by decide⟩

/-- The flags of `EndOfBlock`'s three clauses: loop-start only; loop-end with loop; loop-end without. -/
theorem witness_EndOfBlock : ∀ f ∈ [4#3, 7#3, 3#3, 5#3, 1#3], ((voiceWith 0 fun vc => { vc with loopFlags := f }).voice .c0 0).loopFlags
    = f := by decide +kernel

/-- Voice 1 of core 0 modulated by voice 0, whose output is `x` (95_test_vectors.md 2.7). -/
def modulated (x : Int) : State :=
  ((voiceWith 0 fun vc => { vc with lastOutput := toI32 x }).modVoice .c0 1 fun vc => { vc with pitch := 0x1000#16 }).modCore .c0
    fun k => { k with pmon := 3#24 }

theorem witness_PitchModulation : maskBit ((modulated 0).core .c0).pmon 1 = true ∧ maskBit ((modulated 0).core .c0).pmon 2 = false
    ∧ (modulated (-8192)).effectivePitch .c0 1 = 0x1400 ∧ (modulated (-16384)).effectivePitch .c0 1 = 0x1800
    ∧ (modulated 0).effectivePitch .c0 1 = 0x1000 ∧ (modulated (-32768)).effectivePitch .c0 1 = 0x2000 := by decide +kernel

theorem witness_InterpolationByPolicy :
    (∀ f ∈ [(0 : Int), 4095], 0 ≤ f ∧ f < 4096 ∧ |(-32768 : Int)| ≤ 32768 ∧ |(32767 : Int)| ≤ 32768)
    ∧ (∀ p ∈ [Interp.nearest, .linear, .cubic], ({ Config.reference with interp := p } : Config).interp = p) := by decide

/-- A voice 0 of core 0 in a phase, at a level, its block used up, at a position, with the flags of a last block. -/
def lastBlock (phase : Phase) (level pos : BitVec 32) : State :=
  voiceWith 0 fun vc => { vc with adsr := { vc.adsr with phase := phase, value := level }, samplePosFrac := pos, loopFlags := 1#3 }

/-- The cases of `VoiceTick`: an Off voice; a sounding one, its pull loop ending at once and being stopped; an envelope that goes on
and one that ends (reference parameters). -/
theorem witness_VoiceTick : (State.reset.voice .c1 23).adsr.phase = .off
    ∧ ((lastBlock .attack 1#32 0#32).voice .c0 0).adsr.phase ≠ .off
    ∧ PullRun Config.reference .c0 0 (lastBlock .attack 1#32 4095#32) (lastBlock .attack 1#32 4095#32) true
    ∧ (∃ t, PullRun Config.reference .c0 0 (lastBlock .attack 1#32 4096#32) t false)
    ∧ (adsrNext Config.reference ((lastBlock .attack 1#32 0#32).voice .c0 0).adsr).isSome = true
    ∧ adsrNext Config.reference ((lastBlock .release 0#32 0#32).voice .c0 0).adsr = none :=
  ⟨by decide +kernel, by decide +kernel, .done (by decide +kernel),
    ⟨_, .stopped (by decide +kernel) (by decide +kernel) (by decide +kernel) (by decide +kernel)⟩, by decide +kernel,
    by decide +kernel⟩

theorem witness_NoiseVoiceKeepsCursor : maskBit ((core0With fun k => { k with non := 0x800001#24 }).core .c0).non 23 = true := by
  decide +kernel

theorem witness_ReverbEvenTick : State.reset.tick.getLsbD 0 = false := rfl

theorem witness_ReverbOddTick : ({ State.reset with tick := 0xFFFFFFFF#32 } : State).tick.getLsbD 0 = true := by decide

/-- Sample RAM all 0 at the reference parameters, an odd tick. -/
theorem witness_SilentReverbStaysSilent : let s : State := { resetWith Config.reference with tick := 1#32 }
    Memory.wf Config.reference s.mem ∧ s.tick.getLsbD 0 = true
      ∧ (s.core .c0).revHeld.l = 0#16 ∧ (s.core .c0).revHeld.r = 0#16
      ∧ (∀ a : Addr, InReverbRegion (s.core .c0) a.toNat → s.memRead Config.reference a = 0#16) ∧ InReverbRegion (s.core .c0) 0 :=
  ⟨Memory.wf_nil _, by decide, rfl, rfl, fun a _ => Memory.word_nil _ a, ⟨by decide, by decide⟩⟩

end Sys2Proof.Tests
end

section
/-! PROOFS, family 10_state.md: the state reset leaves (O32, O38), and the invariant over every step (O39). -/

namespace Sys2Proof.Machine

/-! ## The state after reset -/

theorem State.core_resetWith (cfg : Config) (c : CoreId) : (resetWith cfg).core c = resetCore cfg.noiseSeed := by
  cases c <;> rfl

theorem Core.voice_resetCore (seed : BitVec 24) (v : VoiceId) : (resetCore seed).voice v = {} := by
  simp [resetCore, Core.voice]

theorem State.voice_reset (c : CoreId) (v : VoiceId) : State.reset.voice c v = {} := by
  rw [State.voice, State.reset, State.core_resetWith, Core.voice_resetCore]

theorem State.core_reset (c : CoreId) : State.reset.core c = resetCore config.noiseSeed := State.core_resetWith config c

theorem State.shadowAt_reset (c : CoreId) (r : BitVec 9) : State.reset.shadowAt c r = 0#16 := by
  simp [State.shadowAt, State.core_reset, resetCore]

theorem zeroBlock_getElem (i : Fin 28) : zeroBlock[i.val] = 0#16 := by simp [zeroBlock]

theorem Core.offset_resetCore (seed : BitVec 24) (n : RevOff) : (resetCore seed).offset n = 0#20 := by
  simp [resetCore, Core.offset]

theorem Core.coefficient_resetCore (seed : BitVec 24) (n : RevCoef) : (resetCore seed).coefficient n = 0#16 := by
  simp [resetCore, Core.coefficient]

theorem Slide.atReset_default : Slide.AtReset {} := ⟨rfl, rfl, rfl, rfl, rfl, rfl⟩

/-- Settles O32: each clause is the field's default, read through the voice and the core that reset leaves. -/
theorem resetState : Obligations.ResetState := by
  refine ⟨fun c v => ?_, fun c => ?_, fun _ => rfl, Memory.word_nil config, rfl, rfl, rfl, rfl, rfl, rfl, rfl, rfl, rfl, rfl⟩
  · rw [State.voice_reset]
    exact ⟨rfl, rfl, rfl, rfl, rfl, rfl, rfl, rfl, rfl, rfl, rfl, rfl, rfl, Slide.atReset_default, Slide.atReset_default,
      rfl, rfl, rfl, rfl, zeroBlock_getElem, rfl, rfl, rfl, rfl, rfl, rfl, rfl, rfl⟩
  · rw [State.core_reset]
    exact ⟨State.shadowAt_reset c, rfl, rfl, rfl, rfl, rfl, rfl, rfl, rfl, rfl, rfl, rfl, rfl, rfl, rfl, rfl, rfl,
      Slide.atReset_default, Slide.atReset_default, Slide.atReset_default, Slide.atReset_default, Slide.atReset_default,
      Slide.atReset_default, rfl, rfl, Core.offset_resetCore _, Core.coefficient_resetCore _, rfl, rfl, rfl, rfl, rfl⟩

/-! ## The invariant after the three resets -/

theorem Core.ok_resetCore (cfg : Config) (seed : BitVec 24) : (resetCore seed).Ok cfg where
  voices v := by rw [Core.voice_resetCore]; exact Voice.ok_reset
  outPos_lt := cfg.outRingLen_pos
  shadow _ _ := by simp [resetCore]

theorem CacheOk.nil (cfg : Config) (m : Memory) : CacheOk cfg m [] :=
  ⟨List.Pairwise.nil, fun _ h => (by cases h), fun _ h => (by cases h)⟩

/-- With reset cores and no valid cache entry, the invariant asks only for canonical memory. -/
theorem State.Inv.of_reset_cores {cfg : Config} {s : State} (hm : Memory.wf cfg s.mem) (hc : s.cache = [])
    (hk : ∀ c, s.core c = resetCore cfg.noiseSeed) : s.Inv cfg :=
  ⟨hm, by rw [hc]; exact .nil cfg _, fun c => by rw [hk]; exact Core.ok_resetCore cfg _⟩

/-- The `rst` port, from any state. -/
theorem State.inv_powerOn (cfg : Config) (s : State) : (powerOn cfg s).Inv cfg :=
  .of_reset_cores (Memory.wf_nil cfg) rfl fun c => by cases c <;> rfl

/-- The `RESET` command, which keeps memory. -/
theorem State.Inv.resetKeepingMem {cfg : Config} {s : State} (h : s.Inv cfg) : (resetKeepingMem cfg s).Inv cfg :=
  .of_reset_cores h.mem rfl fun c => by cases c <;> rfl

/-- Settles O38: the reset state has reset cores, no cache entry and no listed byte of memory. -/
theorem invariantAtReset : Obligations.InvariantAtReset :=
  .of_reset_cores (Memory.wf_nil config) rfl State.core_reset

/-! ## The invariant over one instruction -/

theorem State.Inv.accept {cfg : Config} {s : State} (h : s.Inv cfg) (rest : List PortEvent) (inputs : SampleInputs) :
    (s.accept rest inputs).Inv cfg := h.congr rfl rfl fun c => by cases c <;> rfl

theorem State.Inv.flagErr {cfg : Config} {s : State} (h : s.Inv cfg) (e : DecodeError) : (flagErr e s).Inv cfg :=
  h.congr rfl rfl fun c => by cases c <;> rfl

theorem State.Inv.payload {cfg : Config} {s : State} (h : s.Inv cfg) (w : CmdWord) : (s.payload cfg w).Inv cfg :=
  (h.hostMemWrite s.burstCore (dataField w)).congr rfl rfl fun c => by cases c <;> rfl

/-- `WREG` of a writable voice register, as a write of a core register whose effect is on one voice. -/
theorem State.Inv.wregVoice {cfg : Config} {s : State} (h : s.Inv cfg) (c : CoreId) (v : VoiceId) {k : BitVec 4}
    (hi : neverShadowed (voiceIndex v k) = false) (d : Half) {f : Voice → Voice} (hf : ∀ x, VoiceKeeps x (f x)) :
    (s.wregVoice c v k d f).Inv cfg :=
  h.wregCore c hi d (f := fun k => k.modVoice v f) fun _ hk => hk.modVoice v ((hk.voices v).keeps (hf _))

theorem State.Inv.setShadow {cfg : Config} {s : State} (h : s.Inv cfg) (c : CoreId) {i : BitVec 9}
    (hi : neverShadowed i = false) (d : Half) : (s.setShadow c i d).Inv cfg := by
  have hw : s.wregCore c i d id = s.setShadow c i d := by cases c <;> rfl
  exact hw ▸ h.wregCore c hi d fun _ hk => hk

theorem Core.Ok.keyOnMask {cfg : Config} {k : Core} (h : k.Ok cfg) (m : VoiceMask) : (k.forMask m (Core.keyOn cfg)).Ok cfg :=
  h.forMask m (Core.voice_keyOn cfg) (fun _ _ => rfl) (fun _ _ => rfl) fun x _ => Voice.ok_keyOn cfg x

theorem Core.Ok.keyOffMask {cfg : Config} {k : Core} (h : k.Ok cfg) (m : VoiceMask) : (k.forMask m Core.keyOff).Ok cfg :=
  h.forMask m Core.voice_keyOff (fun _ _ => rfl) (fun _ _ => rfl) fun _ hx => hx.keyOff

/-- `RREG` answers a next state that differs in the response or in the error latch. -/
theorem State.Inv.execRreg {cfg : Config} {s : State} (h : s.Inv cfg) (c : CoreId) (reg : BitVec 9) :
    ∃ t, execRreg c reg s = .next t ∧ t.Inv cfg := by
  unfold Machine.execRreg
  split
  · exact ⟨_, rfl, h.flagErr _⟩
  · exact ⟨_, rfl, h.congr rfl rfl fun c => by cases c <;> rfl⟩

/-- Every instruction answers a next state, and keeps the invariant: the fourteen cases of `exec_cases` in their order. -/
theorem State.Inv.exec {s : State} (h : s.Inv config) (i : Instr) : ∃ t, exec i s = .next t ∧ t.Inv config := by
  rcases exec_cases i s with hn | hv | hk | ⟨c, d, rfl⟩ | ⟨c, d, rfl | rfl⟩ | ⟨c, d, rfl⟩ | ⟨c, d, rfl⟩ | ⟨c, d, rfl⟩
    | ⟨c, d, rfl⟩ | ⟨c, d, rfl⟩ | ⟨c, reg, rfl⟩ | ⟨c, n, rfl⟩ | rfl | rfl
  · exact ⟨s, hn, h⟩
  · obtain ⟨c, v, k, d, f, he, hi, hf⟩ := hv
    exact ⟨_, he, h.wregVoice c v hi d hf⟩
  · obtain ⟨c, reg, d, f, he, hi, hf⟩ := hk
    exact ⟨_, he, h.wregCore c hi d fun k ok => ok.congr (hf k).shadow (hf k).voices (hf k).outPos⟩
  · exact ⟨_, rfl, h.wregCore c (by decide) d fun _ ok => ok.congr rfl rfl rfl⟩
  · exact ⟨_, rfl, h.wregCore c (by decide) d fun _ ok => ok.congr rfl rfl rfl⟩
  · exact ⟨_, rfl, h.wregCore c (by decide) d fun _ ok => ok.congr rfl rfl rfl⟩
  · exact ⟨_, rfl, h.wregCore c (by decide) d fun _ ok => ok.keyOnMask _⟩
  · exact ⟨_, rfl, h.wregCore c (by decide) d fun _ ok => ok.keyOnMask _⟩
  · exact ⟨_, rfl, h.wregCore c (by decide) d fun _ ok => ok.keyOffMask _⟩
  · exact ⟨_, rfl, h.wregCore c (by decide) d fun _ ok => ok.keyOffMask _⟩
  · exact ⟨_, rfl, (h.setShadow c (by decide) d).hostMemWrite c d⟩
  · exact h.execRreg c reg
  · exact ⟨_, rfl, h.congr rfl rfl fun c => by cases c <;> rfl⟩
  · exact ⟨_, exec_tick s, h.runTick⟩
  · exact ⟨_, rfl, h.resetKeepingMem⟩

/-- Settles O39, by the cases of a step: no event, the `rst` port, a payload word, an illegal word, an instruction. -/
theorem everyStepKeepsInvariant : Obligations.EveryStepKeepsInvariant := by
  intro s t h hst
  rcases step_cases hst with ⟨-, rfl⟩ | ⟨rest, -, rfl⟩ | ⟨w, inputs, rest, -, ⟨-, rfl⟩ | ⟨-, e, -, rfl⟩ | ⟨-, i, -, he⟩⟩
  · exact h
  · exact State.inv_powerOn config _
  · exact (h.accept rest inputs).payload w
  · exact (h.accept rest inputs).flagErr e
  · obtain ⟨u, hu, hok⟩ := (h.accept rest inputs).exec i
    cases hu.symm.trans he
    exact hok

end Sys2Proof.Machine
end

section
/-! PROOFS, family 10_state.md: what a tick leaves alone (O34), and the coherence of the cache (O47). -/

namespace Sys2Proof.Machine

/-! ## The settings over a tick -/

theorem voice_runTick (cfg : Config) (s : State) (c : CoreId) (v : VoiceId) :
    (s.runTick cfg).voice c v = (((s.stepNoise cfg).mixBoth cfg).1).voice c v := by
  rw [State.voice, core_runTick, State.voice]

/-- Settles O34: the mixes of the tick keep the settings (`TickPhase.mixes`), and the push is on neither core. -/
theorem tickKeepsSettings : Obligations.TickKeepsSettings := by
  intro s
  have hm := TickPhase.mixes config s
  exact ⟨_, exec_tick s, fun c => by rw [core_runTick]; exact hm.settings c,
    fun c v => by rw [voice_runTick]; exact hm.voices c v⟩

/-! ## The cache after a store -/

/-- The miss path of `get_block` (40_adpcm_cache.md R121) answers a decode of the current memory. -/
theorem State.getBlock_miss {cfg : Config} {s : State} {a : Addr} (h : s.cache.entry (blockIndex a) = none) (p1 p2 : Half) :
    (s.getBlock cfg a p1 p2).2 = decodeBlock cfg s.mem (blockBase a) p1 p2 := by
  rw [State.getBlock, h]

/-- A store leaves the block it is in without a valid entry (20_memory.md R62). -/
theorem Cache.entry_memWrite_same {cfg : Config} {s : State} {a b : Addr} (d : Half) (h : blockIndex b = blockIndex a) :
    (s.memWrite cfg b d).cache.entry (blockIndex a) = none := by
  rw [State.cache_memWrite, Cache.entry_invalidate_word]
  exact if_pos h.symm

/-- Settles O47: the store reads back, and the block's entry is gone, so `get_block` takes the miss path. -/
theorem cacheIsCoherent : Obligations.CacheIsCoherent := by
  intro cfg s a b d p1 p2 hm hb
  refine ⟨by rw [State.memRead_memWrite hm.1, if_pos rfl], ?_⟩
  rw [State.getBlock_miss (Cache.entry_memWrite_same d hb), blockBase_eq_index, blockIndex]

end Sys2Proof.Machine
end

section
/-! PROOFS, family 20_memory.md: who can change a byte of sample RAM (O43, O35), and what is never cached (O48). -/

namespace Sys2Proof.Machine

/-! ## The stores of a tick -/

/-- A byte a tick changes, by the frame of its mixes (`TickPhase.mixes`): the push and the counter are not memory. -/
theorem State.readByte_runTick_changed {s : State} {b : Nat} (h : (s.runTick config).readByte b ≠ s.readByte b) :
    s.tick.getLsbD 0 = true ∧ ∃ c, (s.core c).fxEn = true ∧ InReverbRegion (s.core c) (b / 2) := by
  rw [State.readByte, mem_runTick] at h
  exact (TickPhase.mixes config s).mem b h

/-- Settles O35: the stores of a tick are those of its mixes. -/
theorem tickStoresOnlyInReverbRegions : Obligations.TickStoresOnlyInReverbRegions :=
  fun s => ⟨_, exec_tick s, fun _ => State.readByte_runTick_changed⟩

/-! ## Memory after one instruction -/

@[simp] theorem State.mem_wregVoice (s : State) (c : CoreId) (v : VoiceId) (k : BitVec 4) (d : Half) (f : Voice → Voice) :
    (s.wregVoice c v k d f).mem = s.mem := by
  rw [State.wregVoice, State.mem_modVoice, State.mem_setShadow]

@[simp] theorem State.mem_wregCore (s : State) (c : CoreId) (reg : BitVec 9) (d : Half) (f : Core → Core) :
    (s.wregCore c reg d f).mem = s.mem := by
  rw [State.wregCore, State.mem_modCore, State.mem_setShadow]

@[simp] theorem State.tda_setShadow (s : State) (c e : CoreId) (reg : BitVec 9) (d : Half) :
    ((s.setShadow c reg d).core e).tda = (s.core e).tda := by
  cases c <;> cases e <;> rfl

theorem mem_execRreg {c : CoreId} {reg : BitVec 9} {s t : State} (h : execRreg c reg s = .next t) : t.mem = s.mem := by
  unfold execRreg at h
  split at h <;> (cases h; rfl)

/-- What one instruction can do to memory: nothing; the store of a `DATA` write at its core's running address (45_commands.md
R281); the stores of a tick. -/
theorem exec_mem_cases {i : Instr} {s t : State} (h : exec i s = .next t) :
    t.mem = s.mem
      ∨ (∃ c d, i = .wregData c d ∧ t.mem = Memory.setWord config s.mem (s.core c).tda d)
      ∨ (i = .tick ∧ t = s.runTick config) := by
  rcases exec_cases i s with hn | hv | hk | ⟨c, d, rfl⟩ | ⟨c, d, rfl | rfl⟩ | ⟨c, d, rfl⟩ | ⟨c, d, rfl⟩ | ⟨c, d, rfl⟩
    | ⟨c, d, rfl⟩ | ⟨c, d, rfl⟩ | ⟨c, reg, rfl⟩ | ⟨c, n, rfl⟩ | rfl | rfl
  · cases hn.symm.trans h; exact .inl rfl
  · obtain ⟨c, v, k, d, f, he, -, -⟩ := hv
    cases he.symm.trans h; exact .inl (State.mem_wregVoice ..)
  · obtain ⟨c, reg, d, f, he, -, -⟩ := hk
    cases he.symm.trans h; exact .inl (State.mem_wregCore ..)
  -- `ATTR`, both `ENDX`, both `KON` and both `KOFF`: a core write, whatever its effect on the core
  iterate 7
    · cases h; exact .inl (State.mem_wregCore ..)
  · cases h; exact .inr (.inl ⟨c, d, rfl, by rw [State.mem_hostMemWrite, State.mem_setShadow, State.tda_setShadow]⟩)
  · exact .inl (mem_execRreg h)
  · cases h; exact .inl rfl
  · exact .inr (.inr ⟨rfl, (Host.Outcome.next.inj ((exec_tick s).symm.trans h)).symm⟩)
  · cases h; exact .inl rfl

/-! ## Memory after one step -/

theorem State.readByte_of_mem_eq {s t : State} (h : t.mem = s.mem) (b : Nat) : t.readByte b = s.readByte b := by
  rw [State.readByte, State.readByte, h]

/-- A byte the store of one word changes is a byte of that word. -/
theorem State.half_eq_of_setWord {s t : State} {a : Addr} {d : Half} (h : t.mem = Memory.setWord config s.mem a d) {b : Nat}
    (hb : t.readByte b ≠ s.readByte b) : b / 2 = a.toNat := by
  by_contra hne
  refine hb ?_
  rw [State.readByte, State.readByte, h]
  exact Memory.byte_setWord_ne _ _ _ (by omega) (by omega)

@[simp] theorem State.core_accept (s : State) (rest : List PortEvent) (inputs : SampleInputs) (c : CoreId) :
    (s.accept rest inputs).core c = s.core c := by cases c <;> rfl

/-- A payload word stores at the running address of the burst's core (45_commands.md R285). -/
@[simp] theorem State.mem_payload (cfg : Config) (s : State) (w : CmdWord) :
    (s.payload cfg w).mem = Memory.setWord cfg s.mem (s.core s.burstCore).tda (dataField w) :=
  State.mem_hostMemWrite cfg s s.burstCore (dataField w)

/-- Settles O43, by the cases of a step: only the `rst` port, a payload word, a `DATA` write and a tick touch memory. Taking the
event off the port changes none of what the places are said by. -/
theorem memoryWritersAreFour : Obligations.MemoryWritersAreFour := by
  intro s t b hst hb
  rcases step_cases hst with ⟨-, rfl⟩ | ⟨rest, hp, -⟩ | ⟨w, inputs, rest, hp, hw⟩
  · exact absurd rfl hb
  · exact .inl ⟨rest, hp⟩
  refine .inr ⟨w, inputs, rest, hp, ?_⟩
  rcases hw with ⟨hburst, rfl⟩ | ⟨-, e, -, rfl⟩ | ⟨hburst, i, hd, he⟩
  · have ha := State.half_eq_of_setWord (s := s.accept rest inputs) (State.mem_payload ..) hb
    exact .inl ⟨hburst, by rwa [State.core_accept] at ha⟩
  · exact absurd rfl hb
  rcases exec_mem_cases he with hm | ⟨c, d, rfl, hm⟩ | ⟨rfl, rfl⟩
  · exact absurd (State.readByte_of_mem_eq hm b) hb
  · have ha := State.half_eq_of_setWord hm hb
    exact .inr (.inl ⟨hburst, c, d, hd, by rwa [State.core_accept] at ha⟩)
  · obtain ⟨hodd, c, hfx, hreg⟩ := State.readByte_runTick_changed (s := s.accept rest inputs) hb
    rw [State.core_accept] at hfx hreg
    exact .inr (.inr ⟨hburst, hd, hodd, c, hfx, hreg⟩)

/-! ## Below `DYN_LINE` -/

/-- Every listed entry is at or above `DYN_LINE` (10_state.md R38 c), so the block of an address below it has none. -/
theorem CacheOk.entry_below {cfg : Config} {m : Memory} {k : Cache} (h : CacheOk cfg m k) {a : Addr} (ha : a.toNat < cfg.dynLine) :
    k.entry (blockIndex a) = none := by
  rcases he : k.entry (blockIndex a) with _ | x
  · rfl
  · obtain ⟨-, hline⟩ := h.range _ (mem_of_lookupKey he)
    simp only [blockIndex] at hline
    omega

/-- A miss below `DYN_LINE` sets no validity bit (20_memory.md R68, 40_adpcm_cache.md R121). -/
theorem State.getBlock_state_below {cfg : Config} {s : State} {a : Addr} (h : s.cache.entry (blockIndex a) = none)
    (ha : a.toNat < cfg.dynLine) (p1 p2 : Half) : (s.getBlock cfg a p1 p2).1 = s := by
  rw [State.getBlock, h]
  exact if_neg (by omega)

/-- Settles O48: the entry is missing, the fetch leaves the state as it was, and so the second fetch is the first again. -/
theorem belowTheLineNeverCached : Obligations.BelowTheLineNeverCached := by
  intro cfg s a p1 p2 hk ha
  have hmiss := hk.entry_below ha
  have hsame := State.getBlock_state_below hmiss ha p1 p2
  exact ⟨by rw [Cache.valid, ← blockIndex, hmiss]; rfl, hsame, by rw [hsame]⟩

end Sys2Proof.Machine
end

section
/-! PROOFS, family 30_encoding.md: the decoder undoes the encoder (O1), a legal word is its instruction's encoding (O2), and the
decode procedure in numbers (O3). -/

namespace Sys2Proof

open Sys2Proof.Machine

/-! ## The word of a register command, register by register (30_encoding.md R95 step 5, R96) -/

theorem regOfIndex_voiceIndex_fin : ∀ (v : VoiceId) (k : Fin 16),
    regOfIndex (voiceIndex v (BitVec.ofFin k)) = voiceRegs[k.val]?.map (Reg.voice v) := by decide +kernel

theorem regOfIndex_voiceIndex (v : VoiceId) (k : BitVec 4) :
    regOfIndex (voiceIndex v k) = voiceRegs[k.toNat]?.map (Reg.voice v) := regOfIndex_voiceIndex_fin v k.toFin

theorem decode_wregWord_voice {k : BitVec 4} {r : VoiceReg} (hk : voiceRegs[k.toNat]? = some r) (c : CoreId) (v : VoiceId)
    (d : Half) : decode (wregWord c (voiceIndex v k) d) = .ok (wregVoiceInstr r c v d) := by
  rw [decode_wregWord, regOfIndex_voiceIndex, hk]
  rfl

theorem decode_wregWord_core {reg : BitVec 9} {r : CoreReg} (hr : regOfIndex reg = some (.core r)) (c : CoreId) (d : Half) :
    decode (wregWord c reg d) = .ok (wregCoreInstr r c d) := by
  rw [decode_wregWord, hr]

/-- Both register commands refuse a reserved index. -/
theorem decode_reservedRegister {op : BitVec 4} (hop : op = 1#4 ∨ op = 2#4) {reg : BitVec 9} (hr : reservedIndex reg = true)
    (c : CoreId) (d : Half) : decode (cmdWord op c reg d) = .error .reservedRegister := by
  have hn := (regOfIndex_eq_none_iff reg).mpr hr
  rcases hop with rfl | rfl
  · exact (decode_wregWord c reg d).trans (by rw [hn])
  · rw [decode_rregWord, hn]

theorem decode_rregWord_of_not_reserved {reg : BitVec 9} (hr : reservedIndex reg = false) (c : CoreId) (d : Half) :
    decode (cmdWord 2#4 c reg d) = .ok (.rreg c reg) := by
  have hn : regOfIndex reg ≠ none := fun h => by simp [(regOfIndex_eq_none_iff reg).mp h] at hr
  obtain ⟨r, hs⟩ := Option.ne_none_iff_exists'.mp hn
  rw [decode_rregWord, hs]

/-- Settles O1, instruction by instruction: the fields of an encoded word are its operands, so what is left is the register lookup
at the number in the instruction's row. -/
theorem decodeOfEncode : Obligations.DecodeOfEncode := by
  intro i hi
  cases i
  case nop | tick | reset => rfl
  case dmaw c n => exact decode_dmawWord c n
  case rreg c reg => exact decode_rregWord_of_not_reserved (by simpa [Instr.wellFormed] using hi) c 0#16
  case wregVVoll | wregVVolr | wregVPitch | wregVAdsr1 | wregVAdsr2 | wregVEnvx | wregVSsaHi | wregVSsaLo | wregVLsaHi
    | wregVLsaLo | wregVNaxHi | wregVNaxLo | wregVVolxl | wregVVolxr =>
    exact Eq.trans (decode_wregWord_voice rfl _ _ _) rfl
  -- the 96 registers beside the voices', each at a number of its own
  all_goals exact (decode_wregWord _ _ _).trans rfl

/-! ## What a legal word is (30_encoding.md R95, R98) -/

theorem decodeWreg_ok {w : CmdWord} {i : Instr} (h : decodeWreg w = .ok i) :
    i.wellFormed = true ∧ encode i = wregWord (coreField w) (regField w) (dataField w) ∧ usedBits i = 0xFFFFFFFF#32 := by
  unfold decodeWreg at h
  split at h
  case h_1 => cases h
  case h_2 v r hr =>
    cases h
    obtain ⟨henc, hwf, hused⟩ := encode_wregVoiceInstr r (coreField w) v (dataField w)
    exact ⟨hwf, by rw [henc, indexOfReg_eq hr], hused⟩
  case h_3 r hr =>
    cases h
    obtain ⟨henc, hwf, hused⟩ := encode_wregCoreInstr r (coreField w) (dataField w)
    exact ⟨hwf, by rw [henc, indexOfReg_eq hr], hused⟩

/-- The commands a legal word can be: the three that are `op` alone, and the three that also have `z = 0`. -/
theorem decode_ok_cases {w : CmdWord} {i : Instr} (h : decode w = .ok i) :
    (opField w = 0#4 ∧ i = .nop) ∨ (opField w = 4#4 ∧ i = .tick) ∨ (opField w = 5#4 ∧ i = .reset)
      ∨ (zField w = 0#2 ∧ ((opField w = 3#4 ∧ decodeDmaw w = .ok i) ∨ (opField w = 1#4 ∧ decodeWreg w = .ok i)
        ∨ (opField w = 2#4 ∧ decodeRreg w = .ok i))) := by
  unfold decode at h
  split_ifs at h with h0 h4 h5 h6 hz h3 h1
  · cases h; exact .inl ⟨h0, rfl⟩
  · cases h; exact .inr (.inl ⟨h4, rfl⟩)
  · cases h; exact .inr (.inr (.inl ⟨h5, rfl⟩))
  · exact .inr (.inr (.inr ⟨not_not.mp hz, .inl ⟨h3, h⟩⟩))
  · exact .inr (.inr (.inr ⟨not_not.mp hz, .inr (.inl ⟨h1, h⟩)⟩))
  · exact .inr (.inr (.inr ⟨not_not.mp hz, .inr (.inr ⟨by bv_omega, h⟩)⟩))

/-- The bits used by a command that is its `op` alone. -/
theorem and_opMask (w : CmdWord) : w &&& 0xF0000000#32 = opField w ++ 0#28 := by
  have hw : opField w ++ w.extractLsb' 0 28 = w :=
    (BitVec.extractLsb'_append_extractLsb'_eq_extractLsb' rfl).trans BitVec.extractLsb'_eq_self
  calc w &&& 0xF0000000#32 = (opField w ++ w.extractLsb' 0 28) &&& (BitVec.allOnes 4 ++ 0#28) := by rw [hw]; rfl
    _ = opField w ++ 0#28 := by rw [BitVec.and_append, BitVec.and_allOnes, BitVec.and_zero]

/-- The bits used by `RREG`: all but the data field. -/
theorem cmdWord_and_rregMask (op : BitVec 4) (c : CoreId) (reg : BitVec 9) (d : Half) :
    cmdWord op c reg d &&& 0xFFFF0000#32 = cmdWord op c reg 0#16 := by
  calc cmdWord op c reg d &&& 0xFFFF0000#32
      = (op ++ (0#2 ++ (coreBit c ++ (reg ++ d))))
        &&& (BitVec.allOnes 4 ++ (BitVec.allOnes 2 ++ (BitVec.allOnes 1 ++ (BitVec.allOnes 9 ++ 0#16)))) := rfl
    _ = op ++ (0#2 ++ (coreBit c ++ (reg ++ 0#16))) := by simp only [BitVec.and_append, BitVec.and_allOnes, BitVec.and_zero]

/-- Settles O2, by the commands a legal word can be: with `z = 0` the word is the word of its fields. -/
theorem decodedWordIsItsEncoding : Obligations.DecodedWordIsItsEncoding := by
  intro w i h
  rcases decode_ok_cases h with ⟨hop, rfl⟩ | ⟨hop, rfl⟩ | ⟨hop, rfl⟩ | ⟨hz, hcmd⟩
  iterate 3
    · exact ⟨rfl, by rw [usedBits, and_opMask, hop]; rfl⟩
  have hw := eq_cmdWord hz
  rcases hcmd with ⟨hop, hd⟩ | ⟨hop, hd⟩ | ⟨hop, hd⟩ <;> rw [hop] at hw
  · obtain ⟨rfl, hreg⟩ := decodeDmaw_ok hd
    rw [hreg] at hw
    exact ⟨rfl, hw.symm.trans BitVec.and_allOnes.symm⟩
  · obtain ⟨hwf, henc, hused⟩ := decodeWreg_ok hd
    exact ⟨hwf, by rw [henc, hused]; exact hw.symm.trans BitVec.and_allOnes.symm⟩
  · obtain ⟨rfl, hres⟩ := decodeRreg_ok hd
    refine ⟨by simp [Instr.wellFormed, hres], ?_⟩
    calc encode (.rreg (coreField w) (regField w))
        = cmdWord 2#4 (coreField w) (regField w) (dataField w) &&& 0xFFFF0000#32 := (cmdWord_and_rregMask ..).symm
      _ = w &&& usedBits (.rreg (coreField w) (regField w)) := by rw [← hw]; rfl

/-! ## The fields of a word in numbers (30_encoding.md R92) -/

theorem opField_toNat (w : CmdWord) : (opField w).toNat = w.toNat / 2 ^ 28 := by
  have := w.isLt
  rw [opField, BitVec.extractLsb'_toNat, Nat.shiftRight_eq_div_pow]
  omega

theorem zField_toNat (w : CmdWord) : (zField w).toNat = w.toNat / 2 ^ 26 % 4 := by
  rw [zField, BitVec.extractLsb'_toNat, Nat.shiftRight_eq_div_pow]

theorem regField_eq (w : CmdWord) : regField w = BitVec.ofNat 9 (w.toNat / 2 ^ 16 % 512) := by
  apply BitVec.eq_of_toNat_eq
  rw [regField, BitVec.extractLsb'_toNat, Nat.shiftRight_eq_div_pow, BitVec.toNat_ofNat, Nat.mod_mod]

theorem coreField_eq (w : CmdWord) : coreField w = if w.toNat / 2 ^ 25 % 2 = 0 then .c0 else .c1 := by
  rw [coreField, BitVec.getLsbD, Nat.testBit, Nat.shiftRight_eq_div_pow, Nat.one_and_eq_mod_two]
  rcases Nat.mod_two_eq_zero_or_one (w.toNat / 2 ^ 25) with h | h <;> rw [h] <;> rfl

theorem opField_of_number {w : CmdWord} {n : BitVec 4} (h : w.toNat / 2 ^ 28 = n.toNat) : opField w = n :=
  BitVec.eq_of_toNat_eq ((opField_toNat w).trans h)

theorem zField_eq_zero_iff (w : CmdWord) : zField w = 0#2 ↔ w.toNat / 2 ^ 26 % 4 = 0 := by
  rw [← zField_toNat, ← BitVec.toNat_inj]
  rfl

/-- A word with `z = 0` is the word of its fields, these read off as numbers. -/
theorem eq_cmdWord_numbers {w : CmdWord} {op : BitVec 4} (hop : w.toNat / 2 ^ 28 = op.toNat) (hz : w.toNat / 2 ^ 26 % 4 = 0) :
    w = cmdWord op (if w.toNat / 2 ^ 25 % 2 = 0 then .c0 else .c1) (BitVec.ofNat 9 (w.toNat / 2 ^ 16 % 512))
      (BitVec.ofNat 16 w.toNat) := by
  rw [← coreField_eq, ← regField_eq, ← dataField_eq, ← opField_of_number hop]
  exact eq_cmdWord ((zField_eq_zero_iff w).mpr hz)

theorem reservedIndex_ofNat {n : Nat} (h : n < 512) : reservedIndex (BitVec.ofNat 9 n) = true ↔ ReservedNumber n := by
  rw [reservedIndex_iff, BitVec.toNat_ofNat, Nat.mod_eq_of_lt h]

/-! ## The decoder by `op` and `z` (30_encoding.md R95 steps 1 to 4) -/

theorem decode_nop {w : CmdWord} (hop : opField w = 0#4) : decode w = .ok .nop := if_pos hop

theorem decode_tick {w : CmdWord} (hop : opField w = 4#4) : decode w = .ok .tick := by simp [decode, hop]

theorem decode_reset {w : CmdWord} (hop : opField w = 5#4) : decode w = .ok .reset := by simp [decode, hop]

theorem decode_reservedOpcode {w : CmdWord} (hop : 6 ≤ (opField w).toNat) : decode w = .error .reservedOpcode := by
  have h0 : opField w ≠ 0#4 := by bv_omega
  have h4 : opField w ≠ 4#4 := by bv_omega
  have h5 : opField w ≠ 5#4 := by bv_omega
  rw [decode, if_neg h0, if_neg h4, if_neg h5, if_pos hop]

theorem decode_reservedBits {w : CmdWord} (hlo : 1 ≤ (opField w).toNat) (hhi : (opField w).toNat ≤ 3) (hz : zField w ≠ 0#2) :
    decode w = .error .reservedBits := by
  have h0 : opField w ≠ 0#4 := by bv_omega
  have h4 : opField w ≠ 4#4 := by bv_omega
  have h5 : opField w ≠ 5#4 := by bv_omega
  rw [decode, if_neg h0, if_neg h4, if_neg h5, if_neg (by omega), if_pos hz]

theorem decode_dmawWord_of_reg_ne {reg : BitVec 9} (hr : reg ≠ 0#9) (c : CoreId) (n : Half) :
    decode (cmdWord 3#4 c reg n) = .error .reservedBits := by
  simp [decode, decodeDmaw, hr]

/-! ## The `WREG` of a register number (10_state.md R42, R47, R51, R52) -/

/-- The halves of the reverb offsets by index - 0x1C0 (10_state.md R51): each name's high half, then its low half. -/
def offsetRegs : List CoreReg := revOffs.flatMap fun k => [.offHi k, .offLo k]

theorem regOfIndex_voice (v : VoiceId) (k : Fin 14) :
    regOfIndex (BitVec.ofNat 9 (v.val * 16 + k.val)) = some (.voice v voiceRegs[k.val]) := by
  have hv : BitVec.ofNat 9 (v.val * 16 + k.val) = voiceIndex v (BitVec.ofNat 4 k.val) := by
    apply BitVec.eq_of_toNat_eq
    rw [voiceIndex_toNat, BitVec.toNat_ofNat, BitVec.toNat_ofNat]
    omega
  rw [hv, regOfIndex_voiceIndex, BitVec.toNat_ofNat, Nat.mod_eq_of_lt (by omega), List.getElem?_eq_getElem k.isLt]
  rfl

theorem regOfIndex_global : ∀ k : Fin 38, regOfIndex (BitVec.ofNat 9 (0x180 + k.val)) = some (.core globalRegs[k.val]) := by
  decide +kernel

theorem regOfIndex_offset : ∀ k : Fin 48, regOfIndex (BitVec.ofNat 9 (0x1C0 + k.val)) = some (.core offsetRegs[k.val]) := by
  decide +kernel

theorem regOfIndex_coef : ∀ k : Fin 10, regOfIndex (BitVec.ofNat 9 (0x1F0 + k.val)) = some (.core (.coef revCoefs[k.val])) := by
  decide +kernel

/-- An entry of a table that lists `f` of the entries of `l`. -/
theorem getElem_of_toList_eq_map {α β : Type} {n : Nat} {t : Vector β n} {l : List α} {f : α → β} (h : t.toList = l.map f)
    (k : Nat) (hk : k < n) (hl : k < l.length) : t[k] = f l[k] := by
  have ht : k < t.toList.length := by rwa [Vector.length_toList]
  rw [← Vector.getElem_toList ht, List.getElem_of_eq h, List.getElem_map]

theorem voiceWregs_getElem (c : CoreId) (v : VoiceId) (d : Half) (k : Fin 14) :
    (voiceWregs c v d)[k.val] = wregVoiceInstr voiceRegs[k.val] c v d :=
  getElem_of_toList_eq_map (l := voiceRegs) (f := (wregVoiceInstr · c v d)) rfl k.val k.isLt k.isLt

theorem globalWregs_getElem (c : CoreId) (d : Half) (k : Fin 38) :
    (globalWregs c d)[k.val] = wregCoreInstr globalRegs[k.val] c d :=
  getElem_of_toList_eq_map (l := globalRegs) (f := (wregCoreInstr · c d)) rfl k.val k.isLt k.isLt

theorem offsetWregs_getElem (c : CoreId) (d : Half) (k : Fin 48) :
    (offsetWregs c d)[k.val] = wregCoreInstr offsetRegs[k.val] c d :=
  getElem_of_toList_eq_map (l := offsetRegs) (f := (wregCoreInstr · c d)) rfl k.val k.isLt k.isLt

theorem coefWregs_getElem (c : CoreId) (d : Half) (k : Fin 10) :
    (coefWregs c d)[k.val] = wregCoreInstr (.coef revCoefs[k.val]) c d :=
  getElem_of_toList_eq_map (l := revCoefs) (f := (wregCoefInstr · c d)) rfl k.val k.isLt k.isLt

/-- Settles O3: `op` alone, then `z`, then the register number, in the order of the procedure. -/
theorem decodeProcedure : Obligations.DecodeProcedure := by
  refine ⟨⟨rfl, rfl, rfl⟩, fun w => ?_⟩
  intro op z c reg d
  have hop : (opField w).toNat = op := opField_toNat w
  have hreg : reg < 512 := Nat.mod_lt _ (by decide)
  have hw {o : BitVec 4} (h : op = o.toNat) (hz : z = 0) : decode w = decode (cmdWord o c (BitVec.ofNat 9 reg) d) :=
    congrArg decode (eq_cmdWord_numbers h hz)
  refine ⟨fun h => decode_nop (opField_of_number h), fun h => decode_tick (opField_of_number h),
    fun h => decode_reset (opField_of_number h), fun h => decode_reservedOpcode (hop ▸ h),
    fun h1 h3 hz => decode_reservedBits (hop ▸ h1) (hop ▸ h3) (mt (zField_eq_zero_iff w).mp hz), ?_, ?_, ?_, ?_, ?_⟩
  · intro h hz hr
    exact (hw (o := 3#4) h hz).trans (decode_dmawWord_of_reg_ne (by bv_omega) c d)
  · intro h hz hr
    rw [hw (o := 3#4) h hz, hr, decode_dmawWord]
  · intro h hz hr
    have hres := (reservedIndex_ofNat hreg).mpr hr
    rcases h with h | h
    · exact (hw (o := 1#4) h hz).trans (decode_reservedRegister (.inl rfl) hres c d)
    · exact (hw (o := 2#4) h hz).trans (decode_reservedRegister (.inr rfl) hres c d)
  · intro h hz hr
    have hres := Bool.eq_false_iff.mpr (mt (reservedIndex_ofNat hreg).mp hr)
    exact (hw (o := 2#4) h hz).trans (decode_rregWord_of_not_reserved hres c d)
  · intro h hz
    have hwreg {i : Instr} (hi : decode (wregWord c (BitVec.ofNat 9 reg) d) = .ok i) : decode w = .ok i :=
      (hw (o := 1#4) h hz).trans hi
    refine ⟨fun v k hk => hwreg ?_, fun k hk => hwreg ?_, fun k hk => hwreg ?_, fun k hk => hwreg ?_⟩
    · rw [hk, voiceWregs_getElem, decode_wregWord, regOfIndex_voice]
    · rw [hk, globalWregs_getElem, decode_wregWord_core (regOfIndex_global k)]
    · rw [hk, offsetWregs_getElem, decode_wregWord_core (regOfIndex_offset k)]
    · rw [hk, coefWregs_getElem, decode_wregWord_core (regOfIndex_coef k)]

end Sys2Proof
end

section
/-! PROOFS, family 40_adpcm_cache.md: `get_block` (O46), the block decoder sample by sample (O49), and the block fetch (O50). -/

namespace Sys2Proof.Machine

/-! ## `get_block` (40_adpcm_cache.md R120, R121) -/

theorem State.getBlock_hit (cfg : Config) {s : State} {a : Addr} {x : Block} (h : s.cache.entry (blockIndex a) = some x)
    (p1 p2 : Half) : s.getBlock cfg a p1 p2 = (s, x) := by
  rw [State.getBlock, h]

/-- Whatever the path, `get_block` writes the cache alone. -/
theorem State.getBlock_state (cfg : Config) (s : State) (a : Addr) (p1 p2 : Half) :
    (s.getBlock cfg a p1 p2).1 = { s with cache := (s.getBlock cfg a p1 p2).1.cache } := by
  unfold State.getBlock
  split
  · rfl
  · dsimp only
    split <;> rfl

@[simp] theorem State.core_getBlock (cfg : Config) (s : State) (a : Addr) (p1 p2 : Half) (c : CoreId) :
    (s.getBlock cfg a p1 p2).1.core c = s.core c := by
  rw [State.getBlock_state]
  cases c <;> rfl

@[simp] theorem State.voice_getBlock (cfg : Config) (s : State) (a : Addr) (p1 p2 : Half) (c : CoreId) (v : VoiceId) :
    (s.getBlock cfg a p1 p2).1.voice c v = s.voice c v := by
  rw [State.voice, State.core_getBlock, State.voice]

/-- The cache after `get_block`, on either path: on a hit the answer is the entry already. -/
theorem State.entry_getBlock (cfg : Config) (s : State) (a : Addr) (p1 p2 : Half) (i : Nat) :
    (s.getBlock cfg a p1 p2).1.cache.entry i
      = if i = blockIndex a ∧ cfg.dynLine ≤ a.toNat then some (s.getBlock cfg a p1 p2).2 else s.cache.entry i := by
  rcases h : s.cache.entry (blockIndex a) with _ | x
  · by_cases ha : cfg.dynLine ≤ a.toNat
    · simp [State.getBlock, h, ha, Cache.entry_fill]
    · rw [State.getBlock_state_below h (by omega), if_neg fun hi => ha hi.2]
  · rw [State.getBlock_hit cfg h]
    split
    · rename_i hi
      rw [hi.1, h]
    · rfl

/-- The interrupt check reads and writes neither memory nor the cache, so it may as well come after `get_block`. -/
theorem State.getBlock_irqCheck (cfg : Config) (s : State) (b a : Addr) (p1 p2 : Half) :
    (s.irqCheck b).getBlock cfg a p1 p2 = ((s.getBlock cfg a p1 p2).1.irqCheck b, (s.getBlock cfg a p1 p2).2) := by
  rcases h : s.cache.entry (blockIndex a) with _ | x
  · by_cases ha : cfg.dynLine ≤ a.toNat <;> simp [State.getBlock, h, ha, State.irqCheck]
  · rw [State.getBlock_hit cfg h, State.getBlock_hit cfg (s := s.irqCheck b) h]

/-- Settles O46: the hit path answers the state itself; the miss path decodes (`State.getBlock_miss`), and what it leaves of the
state is the same on both paths. -/
theorem getBlockHitAndMiss : Obligations.GetBlockHitAndMiss := by
  intro cfg s a p1 p2
  refine ⟨fun x hx => State.getBlock_hit cfg hx p1 p2, fun hmiss => ?_⟩
  have hp := VoicePhase.getBlock cfg s a p1 p2
  refine ⟨?_, fun i => State.entry_getBlock cfg s a p1 p2 i, hp.mem, ⟨?_, ?_⟩, hp.globals⟩
  · rw [State.getBlock_miss hmiss, blockBase_eq_index, blockIndex]
  · exact State.core_getBlock cfg s a p1 p2 .c0
  · exact State.core_getBlock cfg s a p1 p2 .c1

/-! ## The nibbles and the header of a block (40_adpcm_cache.md R122) -/

/-- The entries of lists of length 4 in a row: entry 4q + r is entry r of the q-th. -/
theorem getElem?_flatMap_range_four {α : Type} {f : Nat → List α} (hf : ∀ q, (f q).length = 4) {n q r : Nat} (hq : q < n)
    (hr : r < 4) : ((List.range n).flatMap f)[4 * q + r]? = (f q)[r]? := by
  have hlen : ∀ m, ((List.range m).flatMap f).length = 4 * m := fun m => by
    simp [List.length_flatMap, hf, Nat.mul_comm]
  induction n with
  | zero => omega
  | succ n ih =>
    rw [List.range_succ, List.flatMap_append, List.flatMap_singleton]
    rcases Nat.lt_succ_iff_lt_or_eq.mp hq with hq | rfl
    · rw [List.getElem?_append_left (by rw [hlen]; omega), ih hq]
    · rw [List.getElem?_append_right (by rw [hlen]; omega), hlen, Nat.add_sub_cancel_left]

theorem extractLsb'_eq_ofNat_div {w : Nat} (x : BitVec w) (i n : Nat) :
    x.extractLsb' i n = BitVec.ofNat n (x.toNat / 2 ^ i) := by
  rw [BitVec.extractLsb', Nat.shiftRight_eq_div_pow]

theorem wordNibbles_getElem? (w : Half) {r : Nat} (hr : r < 4) :
    (wordNibbles w)[r]? = some (BitVec.ofNat 4 (w.toNat / 16 ^ r)) := by
  have hpow : (16 : Nat) ^ r = 2 ^ (4 * r) := by norm_num [pow_mul]
  rw [hpow, ← extractLsb'_eq_ofNat_div]
  interval_cases r <;> rfl

theorem blockNibbles_getElem (cfg : Config) (m : Memory) (base : Addr) {i : Nat} (hi : i < (blockNibbles cfg m base).length) :
    (blockNibbles cfg m base)[i]
      = BitVec.ofNat 4 ((Memory.word cfg m (base + BitVec.ofNat 20 (1 + i / 4))).toNat / 16 ^ (i % 4)) := by
  have h28 : i < 28 := blockNibbles_length cfg m base ▸ hi
  have hr : i % 4 < 4 := Nat.mod_lt _ (by decide)
  apply Option.some.inj
  rw [← List.getElem?_eq_getElem hi, ← wordNibbles_getElem? _ hr, Nat.add_comm 1]
  conv_lhs => rw [← Nat.div_add_mod i 4]
  exact getElem?_flatMap_range_four (fun _ => rfl) (by omega) hr

theorem blockHeader_toNat (cfg : Config) (m : Memory) (base : Addr) :
    (blockHeader cfg m base).toNat = (Memory.word cfg m base).toNat % 256 := by
  rw [blockHeader, extractLsb'_eq_ofNat_div, BitVec.toNat_ofNat, pow_zero, Nat.div_one]

theorem blockFlags_eq_ofNat (cfg : Config) (m : Memory) (base : Addr) :
    blockFlags cfg m base = BitVec.ofNat 3 ((Memory.word cfg m base).toNat / 256) :=
  extractLsb'_eq_ofNat_div _ 8 3

/-! ## The samples of a block (40_adpcm_cache.md R124) -/

theorem toInt_toI16_sat16 (x : Int) : (toI16 (sat16 x)).toInt = min (max x (-32768)) 32767 := by
  rw [toI16, sat16, clamp, BitVec.toInt_ofInt]
  exact Int.bmod_eq_of_le (by omega) (by omega)

theorem decodeSample_toInt (coef : Int × Int) (shift : Nat) (n : BitVec 4) (prev1 prev2 : Half) :
    (decodeSample coef shift n prev1 prev2).toInt
      = min (max (n.toInt * 4096 / 2 ^ shift + (coef.1 * prev1.toInt + coef.2 * prev2.toInt) / 64) (-32768)) 32767 :=
  toInt_toI16_sat16 _

/-- The history of a run of samples: the seeds, older first, and the samples after them. Sample i is predicted from its entries
i + 1 and i. -/
def sampleHistory (p1 p2 : Half) (xs : List Half) (k : Nat) : Half := ((p2 :: p1 :: xs)[k]?).getD 0#16

theorem sampleHistory_toInt (p1 p2 : Half) (xs : List Half) : ∀ k, (sampleHistory p1 p2 xs k).toInt
    = if k = 0 then p2.toInt else if k = 1 then p1.toInt else ((xs[k - 2]?).getD 0#16).toInt
  | 0 | 1 | _ + 2 => rfl

/-- Each sample of a run from its nibble and the two entries of the history before it: after the first sample, the run goes on with
the same history without its oldest entry. -/
theorem decodeRun_getElem (coef : Int × Int) (shift : Nat) {ns : List (BitVec 4)} {p1 p2 : Half} {i : Nat}
    (hi : i < ns.length) (hx : i < (decodeRun coef shift ns p1 p2).length) :
    (decodeRun coef shift ns p1 p2)[i] = decodeSample coef shift ns[i]
      (sampleHistory p1 p2 (decodeRun coef shift ns p1 p2) (i + 1)) (sampleHistory p1 p2 (decodeRun coef shift ns p1 p2) i) := by
  induction ns generalizing p1 p2 i with
  | nil => exact absurd hi (Nat.not_lt_zero i)
  | cons n rest ih =>
    cases i with
    | zero => rfl
    | succ i => exact ih (Nat.lt_of_succ_lt_succ hi) (Nat.lt_of_succ_lt_succ hx)

theorem decodeBlock_toList (cfg : Config) (m : Memory) (base : Addr) (p1 p2 : Half) :
    (decodeBlock cfg m base p1 p2).toList
      = decodeRun (cfg.adpcmCoef (BitVec.ofNat 4 ((Memory.word cfg m base).toNat % 256 / 16)))
          ((Memory.word cfg m base).toNat % 256 % 16) (blockNibbles cfg m base) p1 p2 := by
  simp [decodeBlock, extractLsb'_eq_ofNat_div, blockHeader_toNat]

theorem decodeBlock_getElem (cfg : Config) (m : Memory) (base : Addr) (p1 p2 : Half) {i : Nat} (hi : i < 28) :
    (decodeBlock cfg m base p1 p2)[i]
      = decodeSample (cfg.adpcmCoef (BitVec.ofNat 4 ((Memory.word cfg m base).toNat % 256 / 16)))
          ((Memory.word cfg m base).toNat % 256 % 16)
          (BitVec.ofNat 4 ((Memory.word cfg m (base + BitVec.ofNat 20 (1 + i / 4))).toNat / 16 ^ (i % 4)))
          (sampleHistory p1 p2 (decodeBlock cfg m base p1 p2).toList (i + 1))
          (sampleHistory p1 p2 (decodeBlock cfg m base p1 p2).toList i) := by
  have hlist := decodeBlock_toList cfg m base p1 p2
  have hn : i < (blockNibbles cfg m base).length := (blockNibbles_length cfg m base).symm ▸ hi
  rw [← blockNibbles_getElem cfg m base hn, ← Vector.getElem_toList (by rwa [Vector.length_toList])]
  simp only [hlist]
  exact decodeRun_getElem _ _ hn _

/-- Settles O49: sample i is the decode of its nibble after entries i + 1 and i of the history, which are the seeds and then the
samples. -/
theorem blockDecode : Obligations.BlockDecode := by
  intro cfg m base p1 p2
  dsimp only
  intro i
  rw [decodeBlock_getElem cfg m base p1 p2 i.isLt, decodeSample_toInt, sampleHistory_toInt, sampleHistory_toInt]

/-! ## The fetch of a block (41_voice_pipeline.md R146, R147) -/

@[simp] theorem State.voice_irqCheck (s : State) (a : Addr) (c : CoreId) (v : VoiceId) :
    (s.irqCheck a).voice c v = s.voice c v := by
  rw [State.voice, State.core_irqCheck, Core.voice_irqCheck, State.voice]

/-- What a change of one voice leaves of a core, on either core. -/
theorem State.core_modVoice_keeps {α : Type} (g : Core → α) (s : State) (c d : CoreId) {v : VoiceId} {f : Voice → Voice}
    (hg : ∀ k : Core, g (k.modVoice v f) = g k) : g ((s.modVoice c v f).core d) = g (s.core d) := by
  rw [State.core_modVoice]
  split
  · rename_i h
    rw [hg, h]
  · rfl

theorem addr_add_eight (base : Addr) : base + 8#20 = BitVec.ofNat 20 (base.toNat + 8) := by
  rw [BitVec.ofNat_add, BitVec.ofNat_toNat, BitVec.setWidth_eq]

/-- A fetch in the order of its effects: the cache, the interrupts, the latch of the voice. -/
theorem State.fetchBlock_eq (cfg : Config) (s : State) (c : CoreId) (v : VoiceId) {base : Addr}
    (hb : blockBase (s.voice c v).nextAddr = base) :
    s.fetchBlock cfg c v
      = ((s.getBlock cfg base (s.voice c v).prev1 (s.voice c v).prev2).1.irqCheck base).modVoice c v
          (Voice.latch base (blockFlags cfg s.mem base) (s.getBlock cfg base (s.voice c v).prev1 (s.voice c v).prev2).2) := by
  subst hb
  rw [State.fetchBlock, State.getBlock_irqCheck]

/-- Settles O50: the voice is told by the latch, the cache by `get_block`, the pending interrupts by the check; each is left alone
by the other two. -/
theorem blockFetch : Obligations.BlockFetch := by
  intro cfg s c v vc base f x t
  have hb : blockBase vc.nextAddr = base := blockBase_eq_index _
  have ht : t = _ := State.fetchBlock_eq cfg s c v hb
  have hk : t.cache = (s.getBlock cfg base vc.prev1 vc.prev2).1.cache := by
    rw [ht, State.cache_modVoice, State.cache_irqCheck]
  have hp := VoicePhase.fetchBlock cfg s c v
  refine ⟨?_, hk, fun i => ?_, fun d => ⟨?_, ?_⟩, OnlyVoice.fetchBlock cfg s c v, hp.mem, hp.globals⟩
  · rw [ht, State.voice_modVoice_same, State.voice_irqCheck, State.voice_getBlock, Voice.latch, blockFlags_eq_ofNat,
      addr_add_eight]
  · rw [hk]
    exact State.entry_getBlock cfg s base vc.prev1 vc.prev2 i
  · rw [ht, State.core_modVoice_keeps Core.shadow _ c d fun _ => rfl, State.core_irqCheck, Core.shadow_irqCheck,
      State.core_getBlock]
  · rw [ht, State.core_modVoice_keeps Core.control _ c d fun _ => rfl, State.core_irqCheck, Core.control_irqCheck,
      State.core_getBlock]

end Sys2Proof.Machine
end

section
/-! PROOFS, family 41_voice_pipeline.md: the end of a block (O51), the pitch of a tick (O52), interpolation (O53). -/

namespace Sys2Proof.Machine

/-! ## A change of one voice (`VoiceBecomes`) -/

theorem VoiceBecomes.refl (c : CoreId) (v : VoiceId) (s : State) : VoiceBecomes c v (s.voice c v) false s s :=
  ⟨rfl, fun _ _ _ => rfl, fun _ _ => by rw [Bool.false_and, Bool.false_and, Bool.or_false], fun _ => ⟨rfl, rfl⟩, rfl,
    rfl, .refl s⟩

/-- A change of the voice's fields on top of what happened to it before. -/
theorem VoiceBecomes.modVoice {c : CoreId} {v : VoiceId} {vc : Voice} {ended : Bool} {u t : State}
    (h : VoiceBecomes c v vc ended u t) (f : Voice → Voice) : VoiceBecomes c v (f vc) ended u (t.modVoice c v f) := by
  obtain ⟨hvoice, hothers, hendx, hcores, hmem, hcache, hglobals⟩ := h
  refine ⟨?_, OnlyVoice.trans hothers (.modVoice t c v f), fun d w => ?_, fun d => ⟨?_, ?_⟩, ?_, ?_, hglobals.trans ?_⟩
  · rw [State.voice_modVoice_same, hvoice]
  · rw [State.core_modVoice_keeps Core.endx t c d fun _ => rfl, hendx]
  · rw [State.core_modVoice_keeps Core.shadow t c d fun _ => rfl, (hcores d).1]
  · rw [State.core_modVoice_keeps Core.control t c d fun _ => rfl, State.core_modVoice_keeps Core.endx t c d fun _ => rfl,
      (hcores d).2]
  · rw [State.mem_modVoice, hmem]
  · rw [State.cache_modVoice, hcache]
  · simp [SameGlobals]

/-- A stop is the one change of a voice that sets a flag (R149). -/
theorem VoiceBecomes.stopVoice (s : State) (c : CoreId) (v : VoiceId) :
    VoiceBecomes c v { s.voice c v with adsr := { (s.voice c v).adsr with phase := .off, value := 0#32 }, lastOutput := 0#32 }
      true s (s.stopVoice c v) := by
  refine ⟨?_, OnlyVoice.stopVoice s c v, fun d w => ?_, fun d => ⟨?_, State.control_stopVoice s c d v⟩,
    (VoicePhase.stopVoice s c v).mem, ?_, (VoicePhase.stopVoice s c v).globals⟩
  · rw [State.voice_stopVoice, if_pos ⟨rfl, rfl⟩]
  · rw [State.endx_stopVoice, Bool.true_and]
  · rw [State.shadow_stopVoice]
  · rw [State.stopVoice, State.cache_modCore]

/-! ## The end of a block (R145) -/

theorem State.endOfBlock_of_no_end {s : State} {c : CoreId} {v : VoiceId} (he : (s.voice c v).loopFlags.getLsbD 0 = false) :
    s.endOfBlock c v = s := by simp only [State.endOfBlock, he, Bool.false_eq_true, if_false]

theorem State.endOfBlock_of_loop {s : State} {c : CoreId} {v : VoiceId} (he : (s.voice c v).loopFlags.getLsbD 0 = true)
    (hl : (s.voice c v).loopFlags.getLsbD 1 = true) :
    s.endOfBlock c v = s.modVoice c v fun vc => { vc with nextAddr := vc.loopStartAddr } := by
  simp only [State.endOfBlock, he, hl, if_true]

theorem State.endOfBlock_of_last {s : State} {c : CoreId} {v : VoiceId} (he : (s.voice c v).loopFlags.getLsbD 0 = true)
    (hl : (s.voice c v).loopFlags.getLsbD 1 = false) : s.endOfBlock c v = s.stopVoice c v := by
  simp only [State.endOfBlock, he, hl, Bool.false_eq_true, if_true, if_false]

/-- Whatever its flags, a finished block changes one voice. -/
theorem VoiceBecomes.endOfBlock (s : State) (c : CoreId) (v : VoiceId) :
    ∃ vc ended, VoiceBecomes c v vc ended s (s.endOfBlock c v) := by
  cases he : (s.voice c v).loopFlags.getLsbD 0 with
  | false => rw [State.endOfBlock_of_no_end he]; exact ⟨_, _, .refl c v s⟩
  | true =>
    cases hl : (s.voice c v).loopFlags.getLsbD 1 with
    | false => rw [State.endOfBlock_of_last he hl]; exact ⟨_, _, .stopVoice s c v⟩
    | true => rw [State.endOfBlock_of_loop he hl]; exact ⟨_, _, (VoiceBecomes.refl c v s).modVoice _⟩

/-- Settles O51: one equation per case of the flags; the frame is that of a change of one voice. -/
theorem endOfBlock : Obligations.EndOfBlock := by
  intro s c v vc t
  obtain ⟨_, _, _, hothers, _, hcores, hmem, hcache, hglobals⟩ := VoiceBecomes.endOfBlock s c v
  refine ⟨State.endOfBlock_of_no_end, fun he hl => ?_, fun he hl => ?_, hcores, hothers, hmem, hcache, hglobals⟩
  · have ht : t = _ := State.endOfBlock_of_loop he hl
    rw [ht]
    exact ⟨State.voice_modVoice_same _ _ _ _, fun d => State.core_modVoice_keeps Core.endx s c d fun _ => rfl⟩
  · have ht : t = _ := State.endOfBlock_of_last he hl
    obtain ⟨hvoice, _, hendx, _⟩ := VoiceBecomes.stopVoice s c v
    rw [ht]
    exact ⟨hvoice, fun d w => by rw [hendx, Bool.true_and]⟩

/-! ## The pitch of a tick (R141, R142) -/

theorem State.effectivePitch_unmodulated {s : State} {c : CoreId} {v : VoiceId}
    (h : maskBit (s.core c).pmon v = false ∨ v.val = 0) :
    s.effectivePitch c v = (s.voice c v).pitch.toNat := by
  rcases h with h | h <;> simp [State.effectivePitch, h]

theorem State.effectivePitch_modulated {s : State} {c : CoreId} {u v : VoiceId} (hu : u.val + 1 = v.val)
    (hm : maskBit (s.core c).pmon v = true) :
    s.effectivePitch c v = (s.voice c v).pitch.toNat * (32768 + (s.voice c u).lastOutput.toInt.natAbs) / 32768 := by
  have hprev : prevVoice v = u := Fin.ext (show v.val - 1 = u.val by omega)
  have hpos : 0 < v.val := by omega
  simp [State.effectivePitch, hm, hpos, hprev]

/-- Settles O52: the modulated pitch is `p + p * |output| / 2^15`. -/
theorem pitchModulation : Obligations.PitchModulation := by
  intro s c v p
  refine ⟨State.effectivePitch_unmodulated, fun u hu hm => ?_⟩
  rw [State.effectivePitch_modulated hu hm]
  generalize (s.voice c u).lastOutput = out
  refine ⟨rfl, ?_, fun h0 => ?_, fun h1 => ?_⟩
  · rw [Nat.le_div_iff_mul_le (by decide)]
    exact Nat.mul_le_mul_left p (Nat.le_add_right _ _)
  · rw [h0]
    exact Nat.mul_div_cancel p (by decide)
  · rw [h1]
    show p * 65536 / 32768 = 2 * p
    omega

/-! ## Interpolation (R154 to R157) -/

/-- The low 12 bits of a position, in numbers. -/
theorem toNat_and_fraction (x : BitVec 32) : (x &&& 0xfff#32).toNat = x.toNat % 4096 := by
  rw [BitVec.toNat_and]
  exact Nat.and_two_pow_sub_one_eq_mod x.toNat 12

/-- A fraction of a non-negative step, floored, stays within the step. -/
theorem fraction_of_nonneg {d f : Int} (hd : 0 ≤ d) (h0 : 0 ≤ f) (h1 : f < 4096) : 0 ≤ d * f / 4096 ∧ d * f / 4096 ≤ d :=
  ⟨Int.ediv_nonneg (Int.mul_nonneg hd h0) (by decide),
    Int.ediv_le_of_le_mul (by decide) (Int.mul_le_mul_of_nonneg_left h1.le hd)⟩

/-- A fraction of a non-positive step, floored, stays within the step. -/
theorem fraction_of_nonpos {d f : Int} (hd : d ≤ 0) (h0 : 0 ≤ f) (h1 : f < 4096) : d ≤ d * f / 4096 ∧ d * f / 4096 ≤ 0 := by
  refine ⟨?_, Int.ediv_nonpos_of_nonpos_of_neg (Int.mul_nonpos_of_nonpos_of_nonneg hd h0) (by decide)⟩
  rw [Int.le_ediv_iff_mul_le (by decide)]
  exact Int.mul_le_mul_of_nonpos_left hd h1.le

/-- A bound that holds before the division's floor holds after it. -/
theorem abs_mul_ediv_le {x f n B : Int} (hn : 0 < n) (h0 : 0 ≤ f) (h : |x| * f ≤ B * n) : |x * f / n| ≤ B := by
  rw [← abs_of_nonneg h0, ← abs_mul, abs_le] at h
  refine abs_le.mpr ⟨?_, Int.ediv_le_of_le_mul hn h.2⟩
  rw [Int.le_ediv_iff_mul_le hn, Int.neg_mul]
  exact h.1

/-- The bound of one stage of the cubic: the floored product of `x` with a fraction below 4096. -/
theorem abs_stage_le {x f n m B : Int} (hn : 0 < n) (h0 : 0 ≤ f) (h1 : f < 4096) (hx : |x| ≤ m) (hm : m * 4096 ≤ B * n) :
    |x * f / n| ≤ B :=
  abs_mul_ediv_le hn h0 ((Int.mul_le_mul hx h1.le h0 ((abs_nonneg x).trans hx)).trans hm)

theorem linear_between {p2 p3 f : Int} (h0 : 0 ≤ f) (h1 : f < 4096) :
    min p2 p3 ≤ linear p2 p3 f ∧ linear p2 p3 f ≤ max p2 p3 := by
  show min p2 p3 ≤ p2 + (p3 - p2) * f / 4096 ∧ p2 + (p3 - p2) * f / 4096 ≤ max p2 p3
  rcases le_total p2 p3 with h | h
  · have := fraction_of_nonneg (Int.sub_nonneg_of_le h) h0 h1
    omega
  · have := fraction_of_nonpos (Int.sub_nonpos_of_le h) h0 h1
    omega

/-- The three products of the cubic, by the bounds of its three coefficients: the first stays within 262144, the second within
655360, the last within 360448. -/
theorem abs_cubic_terms_le {a b k f : Int} (h0 : 0 ≤ f) (h1 : f < 4096) (ha : |a| ≤ 262144) (hb : |b| ≤ 393216)
    (hk : |k| ≤ 65536) : |((a * f / 4096 + b) * f / 4096 + k) * f / 8192| ≤ 360448 := by
  have hfirst : |a * f / 4096| ≤ 262144 := abs_stage_le (by decide) h0 h1 ha (by decide)
  have hsecond : |(a * f / 4096 + b) * f / 4096| ≤ 655360 :=
    abs_stage_le (by decide) h0 h1 ((abs_add_le _ _).trans (add_le_add hfirst hb)) (by decide)
  exact abs_stage_le (by decide) h0 h1 ((abs_add_le _ _).trans (add_le_add hsecond hk)) (by decide)

theorem abs_cubic_le {p0 p1 p2 p3 f : Int} (h0 : 0 ≤ f) (h1 : f < 4096) (hp0 : |p0| ≤ 32768) (hp1 : |p1| ≤ 32768)
    (hp2 : |p2| ≤ 32768) (hp3 : |p3| ≤ 32768) : |cubic p0 p1 p2 p3 f| ≤ 393216 := by
  have hcoefs : |3 * (p1 - p2) + p3 - p0| ≤ 262144 ∧ |2 * p0 - 5 * p1 + 4 * p2 - p3| ≤ 393216 ∧ |p2 - p0| ≤ 65536 := by
    simp only [abs_le] at *
    omega
  obtain ⟨ha, hb, hk⟩ := hcoefs
  exact (abs_add_le _ _).trans (add_le_add hp1 (abs_cubic_terms_le h0 h1 ha hb hk))

theorem linear_zero (p2 p3 : Int) : linear p2 p3 0 = p2 := by simp [linear, asr]

theorem cubic_zero (p0 p1 p2 p3 : Int) : cubic p0 p1 p2 p3 0 = p1 := by simp [cubic, asr]

theorem Voice.interpolate_eq (cfg : Config) (vc : Voice) :
    vc.interpolate cfg = interpolateAt cfg.interp vc.hist (vc.samplePosFrac.toNat % 4096) := by
  rw [Voice.interpolate, toNat_and_fraction]

/-- Settles O53: the formulas are the policies' own, each bound is that of its stages. -/
theorem interpolationByPolicy : Obligations.InterpolationByPolicy := by
  refine ⟨fun cfg vc => ?_, fun _ _ _ => linear_between, linear_zero, cubic_zero, fun _ _ _ _ _ => abs_cubic_le⟩
  rw [Voice.interpolate_eq]
  exact ⟨fun h => by rw [h]; rfl, fun h => by rw [h]; rfl, fun h => by rw [h]; rfl⟩

end Sys2Proof.Machine
end

section
/-! PROOFS, family 41_voice_pipeline.md: the tick of a voice (O54), and what it leaves alone on a noise voice (O55). -/

namespace Sys2Proof.Machine

/-! ## The turns of the pull loop (R143, R144) -/

/-- A change of a voice is told by what it makes of that voice. -/
theorem State.modVoice_congr {s : State} {c : CoreId} {v : VoiceId} {f g : Voice → Voice}
    (h : f (s.voice c v) = g (s.voice c v)) : s.modVoice c v f = s.modVoice c v g := by
  have hk : (s.core c).modVoice v f = (s.core c).modVoice v g := congrArg
    (fun vc => { s.core c with voices := (s.core c).voices.set v.val vc }) h
  cases c with
  | c0 => exact congrArg (fun k => { s with core0 := k }) hk
  | c1 => exact congrArg (fun k => { s with core1 := k }) hk

theorem State.modVoice_modVoice (s : State) (c : CoreId) (v : VoiceId) (f g : Voice → Voice) :
    (s.modVoice c v f).modVoice c v g = s.modVoice c v fun vc => g (f vc) := by
  cases c <;> simp only [State.modVoice, State.modCore, Core.modVoice, Vector.getElem_set_self, Vector.set_set]

/-- A fetch puts the voice at the first sample of its block and leaves its envelope alone. -/
theorem State.voice_fetchBlock (cfg : Config) (s : State) (c : CoreId) (v : VoiceId) :
    ∃ base flags x, (s.fetchBlock cfg c v).voice c v = (s.voice c v).latch base flags x := by
  rw [State.fetchBlock_eq cfg s c v rfl, State.voice_modVoice_same, State.voice_irqCheck, State.voice_getBlock]
  exact ⟨_, _, _, rfl⟩

theorem State.blkPos_fetchBlock (cfg : Config) (s : State) (c : CoreId) (v : VoiceId) :
    ((s.fetchBlock cfg c v).voice c v).blkPos = 0 := by
  obtain ⟨_, _, _, h⟩ := State.voice_fetchBlock cfg s c v
  rw [h, Voice.latch]

theorem State.adsr_fetchBlock (cfg : Config) (s : State) (c : CoreId) (v : VoiceId) :
    ((s.fetchBlock cfg c v).voice c v).adsr = (s.voice c v).adsr := by
  obtain ⟨_, _, _, h⟩ := State.voice_fetchBlock cfg s c v
  rw [h, Voice.latch]

/-- The flags of a block stop the voice where it is the last: loop-end without loop (R145). -/
def Voice.LastBlock (vc : Voice) : Prop := vc.loopFlags.getLsbD 0 = true ∧ vc.loopFlags.getLsbD 1 = false

/-- A block that is not the last leaves the envelope alone. -/
theorem State.adsr_endOfBlock {s : State} {c : CoreId} {v : VoiceId} (h : ¬(s.voice c v).LastBlock) :
    ((s.endOfBlock c v).voice c v).adsr = (s.voice c v).adsr := by
  cases he : (s.voice c v).loopFlags.getLsbD 0 with
  | false => rw [State.endOfBlock_of_no_end he]
  | true =>
    cases hl : (s.voice c v).loopFlags.getLsbD 1 with
    | false => exact absurd ⟨he, hl⟩ h
    | true => rw [State.endOfBlock_of_loop he hl, State.voice_modVoice_same]

/-- The last block leaves the voice Off. -/
theorem State.phase_endOfBlock_last {s : State} {c : CoreId} {v : VoiceId} (h : (s.voice c v).LastBlock) :
    ((s.endOfBlock c v).voice c v).adsr.phase = .off := by
  rw [State.endOfBlock_of_last h.1 h.2, State.voice_stopVoice, if_pos ⟨rfl, rfl⟩]

theorem State.takeSample_eq {s : State} {c : CoreId} {v : VoiceId} (h : (s.voice c v).blkPos.val < 28) :
    s.takeSample c v = (s.modVoice c v fun vc => { vc with blkPos := ⟨(s.voice c v).blkPos.val + 1, by omega⟩ },
      some (s.voice c v).blk[(s.voice c v).blkPos.val]) := by
  simp only [State.takeSample, h, dif_pos]

/-- The position of `Voice.shiftIn` in numbers. -/
theorem sub_sample_eq {p : BitVec 32} (h : 4096 ≤ p.toNat) : p - 4096#32 = BitVec.ofNat 32 (p.toNat - 4096) := by
  apply BitVec.eq_of_toNat_eq
  rw [BitVec.toNat_sub, BitVec.toNat_ofNat, BitVec.toNat_ofNat]
  omega

/-- A turn of the loop whose pull is one of the latched block's samples. -/
theorem State.pullLoop_turn (cfg : Config) {c : CoreId} {v : VoiceId} (n : Nat) {s t : State}
    (hs : 4096 ≤ (s.voice c v).samplePosFrac.toNat) (hpull : s.pull cfg c v = t.takeSample c v)
    (ht : 4096 ≤ (t.voice c v).samplePosFrac.toNat) (h : (t.voice c v).blkPos.val < 28) :
    State.pullLoop cfg c v (n + 1) s = State.pullLoop cfg c v n
      (t.modVoice c v (Voice.took (t.voice c v).blk[(t.voice c v).blkPos.val] ⟨(t.voice c v).blkPos.val + 1, by omega⟩)) := by
  rw [State.pullLoop, if_pos hs, hpull, State.takeSample_eq h]
  dsimp only
  rw [State.modVoice_modVoice]
  refine congrArg _ (State.modVoice_congr ?_)
  rw [Voice.shiftIn, Voice.took, sub_sample_eq ht, BitVec.signExtend]

theorem State.pullLoop_done (cfg : Config) {c : CoreId} {v : VoiceId} (n : Nat) {s : State}
    (h : (s.voice c v).samplePosFrac.toNat < 4096) : State.pullLoop cfg c v n s = (s, true) := by
  cases n with
  | zero => rfl
  | succ n => rw [State.pullLoop, if_neg (by omega)]

theorem State.pull_latched (cfg : Config) {s : State} {c : CoreId} {v : VoiceId} (h : (s.voice c v).blkPos.val < 28) :
    s.pull cfg c v = s.takeSample c v := by rw [State.pull, if_neg (by omega)]

theorem State.pull_fetched (cfg : Config) {s : State} {c : CoreId} {v : VoiceId} (h : (s.voice c v).blkPos.val = 28)
    (hlast : ¬(s.voice c v).LastBlock) (hoff : (s.voice c v).adsr.phase ≠ .off) :
    s.pull cfg c v = ((s.endOfBlock c v).fetchBlock cfg c v).takeSample c v := by
  rw [State.pull, if_pos h]
  exact if_neg (by rwa [State.adsr_endOfBlock hlast])

theorem State.pull_stopped (cfg : Config) {s : State} {c : CoreId} {v : VoiceId} (h : (s.voice c v).blkPos.val = 28)
    (hlast : (s.voice c v).LastBlock) : s.pull cfg c v = (s.endOfBlock c v, none) := by
  rw [State.pull, if_pos h]
  exact if_pos (State.phase_endOfBlock_last hlast)

/-- The stop of a voice in the loop keeps the fraction of its position. -/
theorem Voice.dropWhole_eq : Voice.dropWhole = fun vc =>
    { vc with samplePosFrac := BitVec.ofNat 32 (vc.samplePosFrac.toNat % 4096) } := by
  funext vc
  rw [Voice.dropWhole, ← toNat_and_fraction, BitVec.ofNat_toNat, BitVec.setWidth_eq]

theorem State.pullLoop_stopped (cfg : Config) {c : CoreId} {v : VoiceId} (n : Nat) {s : State}
    (hs : 4096 ≤ (s.voice c v).samplePosFrac.toNat) (h : (s.voice c v).blkPos.val = 28) (hlast : (s.voice c v).LastBlock) :
    State.pullLoop cfg c v (n + 1) s = ((s.endOfBlock c v).modVoice c v fun vc =>
      { vc with samplePosFrac := BitVec.ofNat 32 (vc.samplePosFrac.toNat % 4096) }, false) := by
  rw [State.pullLoop, if_pos hs, State.pull_stopped cfg h hlast, Voice.dropWhole_eq]

/-- A turn of the loop keeps the envelope and lowers the position by one sample. -/
theorem State.voice_took {t : State} {c : CoreId} {v : VoiceId} (ht : 4096 ≤ (t.voice c v).samplePosFrac.toNat) (x : Half)
    (n : Fin 29) :
    ((t.modVoice c v (Voice.took x n)).voice c v).adsr = (t.voice c v).adsr
      ∧ ((t.modVoice c v (Voice.took x n)).voice c v).samplePosFrac.toNat = (t.voice c v).samplePosFrac.toNat - 4096 := by
  rw [State.voice_modVoice_same]
  exact ⟨Voice.adsr_took x n _, Voice.pos_took ht x n⟩

/-- The next block is latched: envelope and position are as before, the voice stands at its first sample. -/
theorem State.pos_fetch_endOfBlock (cfg : Config) (s : State) (c : CoreId) (v : VoiceId) :
    (((s.endOfBlock c v).fetchBlock cfg c v).voice c v).samplePosFrac = (s.voice c v).samplePosFrac :=
  (State.pos_fetchBlock cfg _ c c v v).trans (State.pos_endOfBlock s c c v v)

/-- With fuel for the whole position, the model's loop on a sounding voice is a `PullRun`. -/
theorem PullRun.pullLoop (cfg : Config) (c : CoreId) (v : VoiceId) (n : Nat) {s : State} (hoff : (s.voice c v).adsr.phase ≠ .off)
    (hfuel : (s.voice c v).samplePosFrac.toNat < (n + 1) * 4096) :
    PullRun cfg c v s (State.pullLoop cfg c v n s).1 (State.pullLoop cfg c v n s).2 := by
  induction n generalizing s with
  | zero => exact .done (by omega)
  | succ n ih =>
    rcases Nat.lt_or_ge (s.voice c v).samplePosFrac.toNat 4096 with hlt | hs
    · rw [State.pullLoop_done cfg _ hlt]
      exact .done hlt
    rcases Nat.lt_or_ge (s.voice c v).blkPos.val 28 with h | h
    · rw [State.pullLoop_turn cfg n hs (State.pull_latched cfg h) hs h]
      obtain ⟨hadsr, hpos⟩ := State.voice_took hs _ _
      exact .latched h hs (ih (by rwa [hadsr]) (by omega))
    have h28 : (s.voice c v).blkPos.val = 28 := by omega
    by_cases hlast : (s.voice c v).LastBlock
    · rw [State.pullLoop_stopped cfg n hs h28 hlast]
      exact .stopped h28 hs hlast.1 hlast.2
    · have hpos := State.pos_fetch_endOfBlock cfg s c v
      have hblk := State.blkPos_fetchBlock cfg (s.endOfBlock c v) c v
      have ht := hpos ▸ hs
      have hturn := State.pullLoop_turn cfg n hs (State.pull_fetched cfg h28 hlast hoff) ht (by rw [hblk]; decide)
      simp only [hblk] at hturn
      rw [hturn]
      obtain ⟨hadsr, hdrop⟩ := State.voice_took ht _ _
      refine .fetched h28 hs hlast (ih ?_ ?_)
      · rwa [hadsr, State.adsr_fetchBlock, State.adsr_endOfBlock hlast]
      · rw [hdrop, hpos]; omega

/-- A voice that the loop leaves live still sounds. -/
theorem PullRun.sounds {cfg : Config} {c : CoreId} {v : VoiceId} {s t : State} {live : Bool} (h : PullRun cfg c v s t live)
    (hlive : live = true) (hoff : (s.voice c v).adsr.phase ≠ .off) : (t.voice c v).adsr.phase ≠ .off := by
  induction h with
  | done => exact hoff
  | latched h hs _ ih => exact ih hlive (by rwa [(State.voice_took hs _ _).1])
  | @fetched s _ _ _ hs hlast _ ih =>
    refine ih hlive ?_
    rw [(State.voice_took (State.pos_fetch_endOfBlock cfg s c v ▸ hs) _ _).1, State.adsr_fetchBlock, State.adsr_endOfBlock hlast]
    exact hoff
  | stopped => cases hlive

/-! ## The sample of a tick (R140 steps 1 to 3) -/

theorem State.voiceSample_noise (cfg : Config) {s : State} {c : CoreId} {v : VoiceId} (h : maskBit (s.core c).non v = true) :
    s.voiceSample cfg c v = (s, some (cfg.noiseOut (s.core c).noise).toInt) := by rw [State.voiceSample, if_pos h]

/-- The sample of a sounding voice is as `VoiceSampled` says, and where there is one the voice still sounds. -/
theorem VoiceSampled.voiceSample (cfg : Config) {s : State} {c : CoreId} {v : VoiceId} (hoff : (s.voice c v).adsr.phase ≠ .off) :
    VoiceSampled cfg c v s (s.voiceSample cfg c v).1 (s.voiceSample cfg c v).2
      ∧ ∀ y, (s.voiceSample cfg c v).2 = some y → ((s.voiceSample cfg c v).1.voice c v).adsr.phase ≠ .off := by
  unfold VoiceSampled
  split
  · rename_i hn
    rw [State.voiceSample_noise cfg hn]
    exact ⟨⟨rfl, rfl⟩, fun _ _ => hoff⟩
  · rename_i hn
    have hstart : (s.modVoice c v fun vc =>
        { vc with samplePosFrac := BitVec.ofNat 32 (vc.samplePosFrac.toNat + s.effectivePitch c v) }) = s.modVoice c v fun vc =>
          { vc with samplePosFrac := BitVec.ofNat 32 ((s.voice c v).samplePosFrac.toNat + s.effectivePitch c v) } :=
      State.modVoice_congr rfl
    rw [State.voiceSample, if_neg hn, hstart]
    dsimp only
    generalize BitVec.ofNat 32 ((s.voice c v).samplePosFrac.toNat + s.effectivePitch c v) = pos
    generalize hs1 : (s.modVoice c v fun vc => { vc with samplePosFrac := pos }) = s1
    have hvoice : s1.voice c v = { s.voice c v with samplePosFrac := pos } := by rw [← hs1, State.voice_modVoice_same]
    have hoff1 : (s1.voice c v).adsr.phase ≠ .off := by rw [hvoice]; exact hoff
    have hrun := PullRun.pullLoop cfg c v (pos.toNat / 4096) hoff1 (by rw [hvoice]; dsimp only; omega)
    rcases hl : State.pullLoop cfg c v (pos.toNat / 4096) s1 with ⟨u, live⟩
    rw [hl] at hrun
    cases live with
    | true => exact ⟨⟨true, hrun, rfl⟩, fun _ _ => hrun.sounds rfl hoff1⟩
    | false => exact ⟨⟨false, hrun, rfl⟩, fun _ h => by cases h⟩

/-! ## Envelope and output (R140 steps 4 and 5) -/

theorem attackStep_sounds {cfg : Config} {a : Adsr} (h : a.phase ≠ .off) : (attackStep cfg a).phase ≠ .off := by
  unfold attackStep
  dsimp only
  split
  · exact Phase.noConfusion
  · exact h

theorem decayStep_sounds (cfg : Config) (a : Adsr) : (decayStep cfg a).phase ≠ .off := by
  unfold decayStep
  dsimp only
  split <;> exact Phase.noConfusion

theorem sustainStep_phase {cfg : Config} {a b : Adsr} (h : sustainStep cfg a = some b) : b.phase = a.phase := by
  simp only [sustainStep] at h
  split_ifs at h <;> (cases h; rfl)

theorem releaseStep_phase {cfg : Config} {a b : Adsr} (h : releaseStep cfg a = some b) : b.phase = a.phase := by
  simp only [releaseStep] at h
  split_ifs at h
  cases h
  rfl

theorem enterRelease_sounds {a : Adsr} (h : a.phase ≠ .off) : (enterRelease a).phase ≠ .off := by
  unfold enterRelease
  split
  · exact Phase.noConfusion
  · exact h

/-- An envelope that goes on from a sounding phase is in a sounding phase: `none` is the only way to stop (42_adsr.md R172). -/
theorem adsrNext_sounds {cfg : Config} {a b : Adsr} (ha : a.phase ≠ .off) (h : adsrNext cfg a = some b) : b.phase ≠ .off := by
  have he := enterRelease_sounds ha
  unfold adsrNext at h
  generalize enterRelease a = e at he h
  cases hp : e.phase with
  | off => exact absurd hp he
  | attack =>
    simp only [hp, Option.some.injEq] at h
    exact h ▸ attackStep_sounds he
  | decay =>
    simp only [hp, Option.some.injEq] at h
    exact h ▸ decayStep_sounds cfg e
  | sustain =>
    simp only [hp] at h
    rwa [sustainStep_phase h]
  | release =>
    simp only [hp] at h
    rwa [releaseStep_phase h]

theorem State.voiceOutput_ends {cfg : Config} {u : State} {c : CoreId} {v : VoiceId} (y : Int)
    (h : adsrNext cfg (u.voice c v).adsr = none) : u.voiceOutput cfg c v y = ((u.stopVoice c v).setLast c v 0, silence) := by
  have hstep : u.adsrStep cfg c v = u.stopVoice c v := by rw [State.adsrStep, h]
  rw [State.voiceOutput, hstep]
  exact if_pos (by rw [State.voice_stopVoice, if_pos ⟨rfl, rfl⟩])

theorem State.voiceOutput_goesOn {cfg : Config} {u : State} {c : CoreId} {v : VoiceId} {a : Adsr} (y : Int)
    (hoff : (u.voice c v).adsr.phase ≠ .off) (h : adsrNext cfg (u.voice c v).adsr = some a) :
    u.voiceOutput cfg c v y = ((u.modVoice c v fun vc => { vc with adsr := a }).setLast c v (envelope y a.value),
      ⟨voiceVolume (envelope y a.value) (u.voice c v).volL, voiceVolume (envelope y a.value) (u.voice c v).volR⟩) := by
  have hstep : u.adsrStep cfg c v = u.modVoice c v fun vc => { vc with adsr := a } := by rw [State.adsrStep, h]
  rw [State.voiceOutput, hstep, State.voice_modVoice_same]
  exact if_neg (adsrNext_sounds hoff h)

theorem State.voiceBody_off (cfg : Config) {s : State} {c : CoreId} {v : VoiceId} (h : (s.voice c v).adsr.phase = .off) :
    s.voiceBody cfg c v = (s.setLast c v 0, silence) := by rw [State.voiceBody, if_pos h]

theorem State.voiceBody_stopped {cfg : Config} {s : State} {c : CoreId} {v : VoiceId} (hoff : (s.voice c v).adsr.phase ≠ .off)
    (h : (s.voiceSample cfg c v).2 = none) : s.voiceBody cfg c v = ((s.voiceSample cfg c v).1.setLast c v 0, silence) := by
  rw [State.voiceBody, if_neg hoff, ← Prod.mk.eta (p := s.voiceSample cfg c v), h]

theorem State.voiceBody_sampled {cfg : Config} {s : State} {c : CoreId} {v : VoiceId} (hoff : (s.voice c v).adsr.phase ≠ .off)
    {y : Int} (h : (s.voiceSample cfg c v).2 = some y) : s.voiceBody cfg c v = (s.voiceSample cfg c v).1.voiceOutput cfg c v y := by
  rw [State.voiceBody, if_neg hoff, ← Prod.mk.eta (p := s.voiceSample cfg c v), h]

/-! ## The tick of a voice (R140) -/

/-- The end of every tick: the output is set and the two slides step (43_volume_mixer.md R197). -/
theorem VoiceBecomes.finish {c : CoreId} {v : VoiceId} {vc : Voice} {ended : Bool} {u t : State} (h : VoiceBecomes c v vc ended u t)
    (cfg : Config) (out : Int) :
    VoiceBecomes c v { vc with lastOutput := BitVec.ofInt 32 out, volL := slideStep cfg vc.volL, volR := slideStep cfg vc.volR }
      ended u ((t.setLast c v out).stepVoiceSlides cfg c v) :=
  (h.modVoice fun vc => { vc with lastOutput := toI32 out }).modVoice
    fun vc => { vc with volL := slideStep cfg vc.volL, volR := slideStep cfg vc.volR }

/-- Settles O54: the body of the tick by its four cases, each a change of one voice; the frame over the pull loop is that of the
voice phase. -/
theorem voiceTick : Obligations.VoiceTick := by
  intro cfg s c v t slid
  have ht : t = ((s.voiceBody cfg c v).1.stepVoiceSlides cfg c v, (s.voiceBody cfg c v).2) := rfl
  have hphase : VoicePhase s t.1 := VoicePhase.voiceTick cfg s c v
  refine ⟨fun hoff => ?_, fun hoff => ⟨?_, hphase.mem, hphase.globals, OnlyVoice.voiceTick cfg s c v,
    fun d => (congrArg Core.shadow (hphase.rest d) :)⟩⟩
  · rw [ht, State.voiceBody_off cfg hoff]
    exact ⟨rfl, rfl, (VoiceBecomes.refl c v s).finish cfg 0⟩
  obtain ⟨hsampled, hsounds⟩ := VoiceSampled.voiceSample cfg hoff
  refine ⟨_, _, hsampled, fun hx => ?_, fun y hx ha => ?_, fun y a hx ha => ?_⟩
  · rw [ht, State.voiceBody_stopped hoff hx]
    exact ⟨rfl, rfl, (VoiceBecomes.refl c v _).finish cfg 0⟩
  · rw [ht, State.voiceBody_sampled hoff hx, State.voiceOutput_ends y ha]
    exact ⟨rfl, rfl, (VoiceBecomes.stopVoice _ c v).finish cfg 0⟩
  · rw [ht, State.voiceBody_sampled hoff hx, State.voiceOutput_goesOn y (hsounds y hx) ha]
    exact ⟨rfl, rfl, ((VoiceBecomes.refl c v _).modVoice fun vc => { vc with adsr := a }).finish cfg _⟩

/-- On a noise voice, Off or sounding, a tick changes the envelope, the output and the two slides, and nothing else of the voice. -/
theorem VoiceBecomes.voiceTick_noise (cfg : Config) {s : State} {c : CoreId} {v : VoiceId} (hn : maskBit (s.core c).non v = true) :
    ∃ a out l r ended, VoiceBecomes c v { s.voice c v with adsr := a, lastOutput := out, volL := l, volR := r } ended s
      (s.voiceTick cfg c v).1 := by
  obtain ⟨hquiet, hsounding⟩ := voiceTick cfg s c v
  by_cases hoff : (s.voice c v).adsr.phase = .off
  · exact ⟨_, _, _, _, _, (hquiet hoff).2.2⟩
  · obtain ⟨⟨u, x, hsampled, _, hends, hgoesOn⟩, _⟩ := hsounding hoff
    rw [VoiceSampled, if_pos hn] at hsampled
    obtain ⟨rfl, hx⟩ := hsampled
    cases ha : adsrNext cfg (u.voice c v).adsr with
    | none => exact ⟨_, _, _, _, _, (hends _ hx ha).2.2⟩
    | some a => exact ⟨_, _, _, _, _, (hgoesOn _ a hx ha).2.2⟩

/-- Settles O55: the cursor is not among what the tick of a noise voice changes. -/
theorem noiseVoiceKeepsCursor : Obligations.NoiseVoiceKeepsCursor := by
  intro cfg s c v hn vc t w
  obtain ⟨_, _, _, _, _, hvoice, _, _, hcores, hmem, hcache, _⟩ := VoiceBecomes.voiceTick_noise cfg hn
  have hw : w = _ := hvoice
  rw [hw]
  exact ⟨rfl, rfl, rfl, rfl, rfl, rfl, rfl, rfl, rfl, hmem, hcache, fun d => (congrArg Core.irqPending (hcores d).2 :)⟩

end Sys2Proof.Machine
end

section
/-! PROOFS, family 42_adsr.md: one envelope step, phase by phase (O44). -/

namespace Sys2Proof.Machine

/-! ## Key-off (R173) -/

theorem enterRelease_of_not_releasing {a : Adsr} (h : a.releasing = false) : enterRelease a = a := by
  simp [enterRelease, h]

theorem enterRelease_of_off {a : Adsr} (h : a.phase = .off) : enterRelease a = a := by
  simp [enterRelease, h]

theorem enterRelease_of_release {a : Adsr} (h : a.phase = .release) : enterRelease a = { a with phase := .release } := by
  have hstays : enterRelease a = a := by simp [enterRelease, h]
  rw [hstays, ← h]

theorem enterRelease_of_releasing {a : Adsr} (hoff : a.phase ≠ .off) (hr : a.releasing = true) :
    enterRelease a = { a with phase := .release } := by
  cases hp : a.phase with
  | off => exact absurd hp hoff
  | attack | decay | sustain => simp [enterRelease, hp, hr]
  | release => exact enterRelease_of_release hp

/-! ## The step each phase takes (R172) -/

theorem adsrNext_attack (cfg : Config) {a : Adsr} (hp : a.phase = .attack) (hr : a.releasing = false) :
    adsrNext cfg a = some (attackStep cfg a) := by
  simp only [adsrNext, enterRelease_of_not_releasing hr, hp]

theorem adsrNext_decay (cfg : Config) {a : Adsr} (hp : a.phase = .decay) (hr : a.releasing = false) :
    adsrNext cfg a = some (decayStep cfg a) := by
  simp only [adsrNext, enterRelease_of_not_releasing hr, hp]

theorem adsrNext_sustain (cfg : Config) {a : Adsr} (hp : a.phase = .sustain) (hr : a.releasing = false) :
    adsrNext cfg a = sustainStep cfg a := by
  simp only [adsrNext, enterRelease_of_not_releasing hr, hp]

theorem adsrNext_release (cfg : Config) {a : Adsr} (h : a.phase = .release ∨ (a.phase ≠ .off ∧ a.releasing = true)) :
    adsrNext cfg a = releaseStep cfg { a with phase := .release } := by
  have he : enterRelease a = { a with phase := .release } :=
    h.elim enterRelease_of_release fun ⟨hoff, hr⟩ => enterRelease_of_releasing hoff hr
  simp only [adsrNext, he]

theorem adsrNext_off (cfg : Config) {a : Adsr} (hp : a.phase = .off) : adsrNext cfg a = some a := by
  simp only [adsrNext, enterRelease_of_off hp, hp]

/-! ## The rising phases (R174, R178) -/

/-- Attack changes the level and the phase only; the phase is Decay once the level saturates. -/
theorem attackStep_eq (cfg : Config) {a : Adsr} (hp : a.phase = .attack) :
    attackStep cfg a = { a with
      value := (attackStep cfg a).value
      phase := if adsrMax ≤ a.value.toInt + cfg.atkStep a.attackRate a.attackMode a.value then .decay else .attack } := by
  unfold attackStep
  dsimp only
  split
  · rfl
  · rw [← hp]

theorem value_attackStep (cfg : Config) {a : Adsr} (h0 : 0 ≤ a.value.toInt) :
    let nv := a.value.toInt + cfg.atkStep a.attackRate a.attackMode a.value
    (attackStep cfg a).value.toInt = if adsrMax ≤ nv then adsrMax else nv := by
  unfold attackStep
  dsimp only
  split
  · exact toI32_nonneg (by decide) le_rfl
  · exact toI32_nonneg (by omega) (by omega)

theorem sustainStep_rising (cfg : Config) {a : Adsr} (hm : a.sustainMode.getLsbD 1 = false) :
    sustainStep cfg a =
      some { a with value := toI32 (min (a.value.toInt + cfg.susStep a.sustainRate a.sustainMode a.value) adsrMax) } := by
  simp only [sustainStep, hm, Bool.false_eq_true, if_false]

/-! ## Decay (R175, R176) -/

theorem value_decayStep (cfg : Config) (a : Adsr) :
    (decayStep cfg a).value.toInt = max (a.value.toInt - cfg.decStep a.decayRate a.value) 0 := by
  have hmax := value_le_max a.value
  exact toI32_nonneg (le_max_right _ _) (max_le (by omega) (by decide))

/-! ## The phases that fall until the voice stops (R179, R180) -/

/-- The level falls by `d`; at 0 or below the voice is to be stopped. -/
def Adsr.fall (a : Adsr) (d : Nat) : Option Adsr :=
  if a.value.toInt - d ≤ 0 then none else some { a with value := toI32 (a.value.toInt - d) }

theorem sustainStep_falling (cfg : Config) {a : Adsr} (hm : a.sustainMode.getLsbD 1 = true) :
    sustainStep cfg a = a.fall (cfg.susStep a.sustainRate a.sustainMode a.value) := by
  simp only [sustainStep, hm, if_true, Adsr.fall]

theorem releaseStep_eq_fall (cfg : Config) (a : Adsr) :
    releaseStep cfg a = a.fall (cfg.relStep a.releaseRate a.releaseMode a.value) := rfl

theorem Adsr.fall_spec (a : Adsr) (d : Nat) :
    (a.value.toInt - d ≤ 0 → a.fall d = none)
    ∧ (0 < a.value.toInt - d →
      ∃ b, a.fall d = some b ∧ b = { a with value := b.value } ∧ b.value.toInt = a.value.toInt - d) := by
  have hmax := value_le_max a.value
  exact ⟨fun h => if_pos h, fun h => ⟨_, if_neg (by omega), rfl, toI32_nonneg (by omega) (by omega)⟩⟩

/-! ## One step -/

/-- Settles O44: the step of each phase, in the order of the clauses. -/
theorem envelopeStep : Obligations.EnvelopeStep := by
  intro cfg a h0 x
  refine ⟨fun hp hr => ?attack, fun hp hr => ?decay, fun hp hr hm => ?rising, fun hp hr hm => ?falling, fun h => ?release,
    fun hp => adsrNext_off cfg hp⟩
  case attack => exact ⟨_, adsrNext_attack cfg hp hr, attackStep_eq cfg hp, value_attackStep cfg h0⟩
  case decay => exact ⟨_, adsrNext_decay cfg hp hr, value_decayStep cfg a, rfl⟩
  case rising =>
    rw [adsrNext_sustain cfg hp hr, sustainStep_rising cfg hm]
    exact ⟨_, rfl, rfl, toI32_nonneg (le_min (by omega) (by decide)) (min_le_right _ _)⟩
  case falling =>
    rw [adsrNext_sustain cfg hp hr, sustainStep_falling cfg hm]
    exact a.fall_spec _
  case release =>
    rw [adsrNext_release cfg h, releaseStep_eq_fall]
    exact ({ a with phase := .release } : Adsr).fall_spec _

end Sys2Proof.Machine
end

section
/-! PROOFS, family 43_volume_mixer.md: one step of a volume slide (O45). -/

namespace Sys2Proof.Machine

/-! ## The step of a slide (43_volume_mixer.md R193) -/

/-- What a slide stores is the clamped integer itself: its range lies in i16, whatever its lower bound. -/
theorem toInt_toI16_clamp (x : Int) {lo : Int} (hlo : -0x8000 ≤ lo) : (toI16 (clamp x lo 0x7fff)).toInt = min (max x lo) 0x7fff := by
  rw [toI16, clamp, BitVec.toInt_ofInt]
  exact Int.bmod_eq_of_le (by omega) (by omega)

theorem slideStep_fixed (cfg : Config) {x : Slide} (h : x.fixed = true) : slideStep cfg x = x := if_pos h

/-- A sliding slide takes the delta in its direction, clamped from its lower bound (R193). -/
theorem slideStep_sliding (cfg : Config) {x : Slide} (h : x.fixed = false) :
    slideStep cfg x = { x with value := toI16 (clamp
      (if x.dec then x.value.toInt - (cfg.slideDelta x.exp x.dec x.increment x.value : Int)
        else x.value.toInt + (cfg.slideDelta x.exp x.dec x.increment x.value : Int))
      (if x.neg then -0x8000 else 0) 0x7fff) } := by
  rw [slideStep, if_neg (by simp [h])]

/-- Settles O45: the two branches of the step; both lower bounds are in i16, so the stored value is the clamped integer. -/
theorem volumeSlideStep : Obligations.VolumeSlideStep := by
  intro cfg x
  refine ⟨slideStep_fixed cfg, fun h => ?_⟩
  have hlo : (-0x8000 : Int) ≤ if x.neg then -0x8000 else 0 := by split <;> decide
  rw [slideStep_sliding cfg h]
  exact ⟨toInt_toI16_clamp _ hlo, rfl⟩

end Sys2Proof.Machine
end

section
/-! PROOFS, family 43_volume_mixer.md: the mix of a core, stage by stage (O56). -/

namespace Sys2Proof.Machine

/-! ## The voices, one after the other (43_volume_mixer.md R199) -/

/-- The state after the first `n` voices of core `c` have ticked, in order. -/
def State.afterVoices (cfg : Config) (c : CoreId) (s : State) (n : Nat) : State :=
  (voiceIds.take n).foldl (fun t v => (t.voiceTick cfg c v).1) s

/-- What voice `v` contributes when it ticks in its turn. -/
def State.contribution (cfg : Config) (c : CoreId) (s : State) (v : VoiceId) : Sig :=
  ((s.afterVoices cfg c v.val).voiceTick cfg c v).2

theorem take_succ_voiceIds (v : VoiceId) : voiceIds.take (v.val + 1) = voiceIds.take v.val ++ [v] := by
  have hv : v.val < voiceIds.length := by simp [voiceIds]
  rw [List.take_add_one, List.getElem?_eq_getElem hv]
  simp [voiceIds]

theorem State.afterVoices_succ (cfg : Config) (c : CoreId) (s : State) (v : VoiceId) :
    s.afterVoices cfg c (v.val + 1) = ((s.afterVoices cfg c v.val).voiceTick cfg c v).1 := by
  rw [afterVoices, take_succ_voiceIds, List.foldl_append]
  rfl

theorem State.voiceTick_afterVoices (cfg : Config) (c : CoreId) (s : State) (v : VoiceId) :
    (s.afterVoices cfg c v.val).voiceTick cfg c v = (s.afterVoices cfg c (v.val + 1), s.contribution cfg c v) := by
  rw [afterVoices_succ]
  rfl

theorem VoicePhase.afterVoices (cfg : Config) (c : CoreId) (s : State) : ∀ {n : Nat}, n ≤ 24 → VoicePhase s (s.afterVoices cfg c n)
  | 0, _ => .refl s
  | n + 1, h => by
    have hs := State.afterVoices_succ cfg c s ⟨n, h⟩
    exact hs ▸ (VoicePhase.afterVoices cfg c s (by omega)).trans (.voiceTick cfg _ c _)

/-! ## The four sums -/

/-- The sum of one channel over voices, under one routing mask. -/
def routedSum (m : VoiceMask) (channel : Sig → Int) (o : VoiceId → Sig) (vs : List VoiceId) : Int :=
  (vs.map fun v => if maskBit m v then channel (o v) else 0).sum

/-- The four sums of a core over voices. -/
def Core.routedSums (k : Core) (o : VoiceId → Sig) (vs : List VoiceId) : Sums :=
  { dry := ⟨routedSum k.vmixDl Sig.l o vs, routedSum k.vmixDr Sig.r o vs⟩
    wet := ⟨routedSum k.vmixWl Sig.l o vs, routedSum k.vmixWr Sig.r o vs⟩ }

theorem routedSum_concat (m : VoiceMask) (channel : Sig → Int) (o : VoiceId → Sig) (vs : List VoiceId) (v : VoiceId) :
    routedSum m channel o (vs ++ [v]) = routedSum m channel o vs + gate (maskBit m v) (channel (o v)) := by
  simp [routedSum, gate]

theorem Core.routedSums_concat (k : Core) (o : VoiceId → Sig) (vs : List VoiceId) (v : VoiceId) :
    k.routedSums o (vs ++ [v]) = (k.routedSums o vs).add k v (o v) := by
  simp only [routedSums, routedSum_concat, Sums.add]

theorem routedSum_voiceIds (m : VoiceMask) (channel : Sig → Int) (o : VoiceId → Sig) :
    routedSum m channel o voiceIds = ∑ v : VoiceId, if maskBit m v then channel (o v) else 0 :=
  (Fin.sum_univ_def _).symm

/-- The routing masks are outside what a voice's tick changes. -/
theorem Sums.add_congr {k k' : Core} (h : k'.rest = k.rest) (v : VoiceId) (x : Sig) (a : Sums) : a.add k' v x = a.add k v x :=
  show a.add k'.rest v x = a.add k.rest v x by rw [h]

/-- After `n` voices the fold holds their state and their four exact sums. -/
theorem foldl_sumVoice (cfg : Config) (c : CoreId) (s : State) : ∀ {n : Nat}, n ≤ 24 →
    (voiceIds.take n).foldl (sumVoice cfg c) (s, ⟨silence, silence⟩)
      = (s.afterVoices cfg c n, (s.core c).routedSums (s.contribution cfg c) (voiceIds.take n))
  | 0, _ => rfl
  | n + 1, h => by
    have ht := take_succ_voiceIds ⟨n, h⟩
    have hs := s.voiceTick_afterVoices cfg c ⟨n, h⟩
    have hk := (VoicePhase.afterVoices cfg c s h).rest c
    dsimp only at ht hs
    rw [ht, List.foldl_append, foldl_sumVoice cfg c s (by omega), Core.routedSums_concat]
    simp only [List.foldl_cons, List.foldl_nil, sumVoice, hs, Sums.add_congr hk]

theorem State.voiceSums_eq (cfg : Config) (c : CoreId) (s : State) :
    s.voiceSums cfg c = (s.afterVoices cfg c 24,
      ⟨satSig ((s.core c).routedSums (s.contribution cfg c) voiceIds).dry,
        satSig ((s.core c).routedSums (s.contribution cfg c) voiceIds).wet⟩) := by
  have h := foldl_sumVoice cfg c s (le_refl 24)
  rw [show voiceIds.take 24 = voiceIds from List.take_of_length_le (by simp [voiceIds])] at h
  rw [voiceSums, h]

/-! ## The stages after the voices (43_volume_mixer.md R200 to R205) -/

/-- The part of a core that is the same all through its mix until `finishMix`: neither the voices nor the reverb change it. -/
def Core.mixSettings (k : Core) : Core := { k.rest with revCursor := 0#20, revLast := {}, revHeld := {} }

theorem VoicePhase.mixSettings {s t : State} (h : VoicePhase s t) (c : CoreId) :
    (t.core c).mixSettings = (s.core c).mixSettings := by
  rw [Core.mixSettings, h.rest c, ← Core.mixSettings]

theorem mixSettings_preMaster (cfg : Config) (s : State) (c : CoreId) (x : Sums) :
    ((s.preMaster cfg c x).1.core c).mixSettings = (s.core c).mixSettings := by
  obtain ⟨_, _, _, h⟩ := core_preMaster cfg s c c x
  rw [h]
  rfl

/-- What reads only mix settings reads the same of two cores that agree on them. -/
theorem Core.congr_of_mixSettings {α : Type} {f : Core → α} (hf : ∀ k, f k.mixSettings = f k) {k k' : Core}
    (h : k'.mixSettings = k.mixSettings) : f k' = f k := by rw [← hf, h, hf]

/-- The last stage on a core that agrees with `k` on the mix settings: the six slides step from their values in `k`. -/
theorem Core.finishMix_congr (cfg : Config) {k k' : Core} (h : k'.mixSettings = k.mixSettings) :
    k'.finishMix cfg = { k' with
      mvolL := slideStep cfg k.mvolL, mvolR := slideStep cfg k.mvolR, evolL := slideStep cfg k.evolL
      evolR := slideStep cfg k.evolR, ivolL := slideStep cfg k.ivolL, ivolR := slideStep cfg k.ivolR
      outPos := (k.outPos + 1) % cfg.outRingLen } := by
  simp only [mixSettings, rest, Core.mk.injEq] at h
  simp only [finishMix, h]

/-- The pre-master value, its two settings read off a core that agrees on the mix settings (R202, R203). -/
theorem State.preMaster_congr (cfg : Config) {s : State} {c : CoreId} {k : Core} (h : (s.core c).mixSettings = k.mixSettings)
    (x : Sums) : s.preMaster cfg c x =
      if k.fxEn then
        let rv := s.reverbTick cfg c x.wet
        (rv.1, ⟨sat16 (x.dry.l + (k.effectsReturn rv.2).l), sat16 (x.dry.r + (k.effectsReturn rv.2).r)⟩)
      else (s, x.dry) := by
  have hf : (s.core c).fxEn = k.fxEn := Core.congr_of_mixSettings (fun _ => rfl) h
  have he : (s.core c).effectsReturn = k.effectsReturn := Core.congr_of_mixSettings (fun _ => rfl) h
  rw [preMaster, hf, he]

/-- What enters the effects stage: the gated voices, input and external input (R199 to R201). -/
def State.gatedSums (cfg : Config) (s : State) (c : CoreId) (ext inp : Sig) : Sums :=
  (s.core c).gates (s.voiceSums cfg c).2.dry (s.voiceSums cfg c).2.wet ((s.core c).inputVolume inp) ext

/-- The mix with every stage read off the core as it was before the voices. -/
theorem State.mixCore_eq (cfg : Config) (s : State) (c : CoreId) (ext inp : Sig) :
    s.mixCore cfg c ext inp =
      let p := (s.voiceSums cfg c).1.preMaster cfg c (s.gatedSums cfg c ext inp)
      (p.1.modCore c (Core.finishMix cfg), (s.core c).master p.2) := by
  have hv := (VoicePhase.voiceSums cfg s c).mixSettings c
  have hp := (mixSettings_preMaster cfg (s.voiceSums cfg c).1 c (s.gatedSums cfg c ext inp)).trans hv
  have hg := Core.congr_of_mixSettings (f := Core.gates) (fun _ => rfl) hv
  have hi := Core.congr_of_mixSettings (f := Core.inputVolume) (fun _ => rfl) hv
  have hm := Core.congr_of_mixSettings (f := Core.master) (fun _ => rfl) hp
  rw [gatedSums] at hm
  simp only [mixCore, gatedSums, hg, hi, hm]

theorem clip_le (x : Int) : clip x ≤ 32767 := min_le_right _ _

theorem le_clip (x : Int) : -32768 ≤ clip x := le_min (le_max_right _ _) (by decide)

/-- Settles O56: the voices tick as `afterVoices` and contribute as `contribution` say; their routed sums, gated, are `gatedSums`,
from which `preMaster_congr` gives the state `u` and the pre-master value; the master volume and `finishMix` end the mix. -/
theorem coreMix : Obligations.CoreMix := by
  intro cfg s c ext inp t k
  refine ⟨⟨clip_le _, le_clip _, clip_le _, le_clip _⟩, s.afterVoices cfg c, s.contribution cfg c, rfl,
    s.voiceTick_afterVoices cfg c, ?_⟩
  intro sum path vol dryL dryR wetL wetR rv preL preR u
  have hx : s.gatedSums cfg c ext inp = ⟨⟨dryL, dryR⟩, ⟨wetL, wetR⟩⟩ := by
    simp only [dryL, dryR, wetL, wetR, path, sum, ← routedSum_voiceIds, State.gatedSums, State.voiceSums_eq]
    rfl
  have hs : ((s.afterVoices cfg c 24).core c).mixSettings = k.mixSettings :=
    (VoicePhase.afterVoices cfg c s (le_refl 24)).mixSettings c
  have hp : (s.afterVoices cfg c 24).preMaster cfg c ⟨⟨dryL, dryR⟩, ⟨wetL, wetR⟩⟩ = (u, ⟨preL, preR⟩) := by
    rw [State.preMaster_congr cfg hs]
    simp only [u, preL, preR]
    split <;> rfl
  have hu : (u.core c).mixSettings = k.mixSettings := by
    have h := mixSettings_preMaster cfg (s.afterVoices cfg c 24) c ⟨⟨dryL, dryR⟩, ⟨wetL, wetR⟩⟩
    rw [hp] at h
    exact h.trans hs
  have ht : t = (u.modCore c (Core.finishMix cfg), k.master ⟨preL, preR⟩) := by
    simp only [t, State.mixCore_eq, State.voiceSums_eq, hx, hp, k]
  rw [ht]
  refine ⟨rfl, rfl, ?core, State.core_modCore_other _ _ _, State.mem_modCore _ _ _, State.cache_modCore _ _ _, ?globals⟩
  case core => rw [State.core_modCore_same, Core.finishMix_congr cfg hu]
  case globals => simp [SameGlobals]

end Sys2Proof.Machine
end

section
/-! PROOFS, family 43_volume_mixer.md: a core with its gates closed and its effects off is silent (O37). -/

namespace Sys2Proof.Machine

/-- The twelve gates of a core are closed and its effects are off (43_volume_mixer.md R201, R203). -/
def Core.Closed (k : Core) : Prop := k.mmix = 0#12 ∧ k.fxEn = false

/-- Both are settings, so what keeps the settings keeps a closed core closed. -/
theorem Core.Closed.of_settings {k k' : Core} (hk : k.Closed) (h : k'.settings = k.settings) : k'.Closed :=
  show k'.settings.Closed by rw [h]; exact hk

theorem Core.closed_resetCore (seed : BitVec 24) : (resetCore seed).Closed := ⟨rfl, rfl⟩

theorem Core.gates_of_closed {k : Core} (h : k.mmix = 0#12) (vd vw iv ext : Sig) : k.gates vd vw iv ext = ⟨silence, silence⟩ := by
  simp only [gates, h, BitVec.getLsbD_zero, gate]
  rfl

theorem Core.master_silence (k : Core) : k.master silence = silence := by
  simp [master, scale, satSig, silence, sat16, clamp, asr]

/-- Closed gates let nothing into the dry sum, and with effects off the dry sum is all the master volume gets. -/
theorem State.mixCore_closed (cfg : Config) {s : State} {c : CoreId} (h : (s.core c).Closed) (ext inp : Sig) :
    (s.mixCore cfg c ext inp).2 = silence := by
  obtain ⟨hm, hf⟩ := h
  have hv := (VoicePhase.voiceSums cfg s c).mixSettings c
  rw [mixCore_eq, gatedSums, Core.gates_of_closed hm, preMaster_congr cfg hv, if_neg (by simp [hf])]
  exact Core.master_silence _

/-- A tick with core 1 closed pushes (0, 0): core 1 is mixed last, and neither the noise step nor core 0's mix opens it (R206). -/
theorem State.out_runTick_closed (cfg : Config) {s : State} (h : (s.core .c1).Closed) : (s.runTick cfg).out = ⟨0#16, 0#16⟩ := by
  have hm := (TickPhase.stepNoise cfg s).trans (.mixCore cfg _ .c0 (s.stepNoise cfg).ext0 (s.stepNoise cfg).snd0)
  have hs : ((s.stepNoise cfg).mixBoth cfg).2 = silence := mixCore_closed cfg (h.of_settings (hm.settings .c1)) _ _
  simp only [runTick, push, hs]
  rfl

/-- Settles O37: reset closes core 1, a closed core 1 is pushed as silence, and a tick keeps the two settings. -/
theorem closedGatesPushSilence : Obligations.ClosedGatesPushSilence := by
  refine ⟨Core.closed_resetCore _, fun s hm hf => ?_⟩
  have hc : (s.core .c1).Closed := ⟨hm, hf⟩
  have ho := State.out_runTick_closed config hc
  obtain ⟨t, ht, hset, -⟩ := tickKeepsSettings s
  obtain rfl : s.runTick config = t := by simpa [exec_tick] using ht
  exact ⟨_, ht, congrArg Stereo.l ho, congrArg Stereo.r ho, hc.of_settings (hset .c1)⟩

end Sys2Proof.Machine
end

section
/-! PROOFS, family 44_reverb.md: the reverb on an even tick (O57) and on an odd tick (O58). -/

namespace Sys2Proof.Machine

/-! ## The two phases (44_reverb.md R222) -/

theorem State.reverbTick_even (cfg : Config) {s : State} (h : s.tick.getLsbD 0 = false) (c : CoreId) (x : Sig) :
    s.reverbTick cfg c x = s.reverbEven c x := if_neg (by rw [h]; decide)

theorem State.reverbTick_odd (cfg : Config) {s : State} (h : s.tick.getLsbD 0 = true) (c : CoreId) (x : Sig) :
    s.reverbTick cfg c x = s.reverbOdd cfg c x := if_pos h

/-- Settles O57: an even tick is one change of core `c`, of its held input alone. -/
theorem reverbEvenTick : Obligations.ReverbEvenTick := by
  intro cfg s c x hs t
  have ht : t = s.reverbEven c x := State.reverbTick_even cfg hs c x
  rw [ht, State.reverbEven]
  simp [toI16, SameGlobals]

/-! ## The formulas of the network in integers (44_reverb.md R225, R229 to R233) -/

/-- Flipping the top bit of a 16-bit pattern is adding 0x8000 to it: the 15 bits below stay. -/
theorem xor_signBit_eq_add (a : Half) : a ^^^ 0x8000#16 = a + 0x8000#16 := by
  have hlt := a.isLt
  have hhigh : (a.toNat ^^^ 0x8000) / 2 ^ 15 = a.toNat / 2 ^ 15 ^^^ 1 := Nat.xor_div_two_pow
  have hlow : (a.toNat ^^^ 0x8000) % 2 ^ 15 = a.toNat % 2 ^ 15 := by rw [Nat.xor_mod_two_pow]; exact Nat.xor_zero _
  have hbit : a.toNat / 2 ^ 15 = 0 ∨ a.toNat / 2 ^ 15 = 1 := by omega
  apply BitVec.eq_of_toNat_eq
  rw [BitVec.toNat_xor, BitVec.toNat_add, show (0x8000#16).toNat = 0x8000 from rfl]
  rcases hbit with h | h <;> simp only [h, Nat.zero_xor, Nat.xor_self] at hhigh <;> omega

/-- Adding 0x8000 moves a negative coefficient up and any other down by 32768 (44_reverb.md R232). -/
theorem Core.fbAlphaFlipped_eq (k : Core) : k.fbAlphaFlipped = flippedAlpha k := by
  rw [fbAlphaFlipped, flippedAlpha, xor_signBit_eq_add]
  simp only [BitVec.toInt_eq_toNat_cond, BitVec.toNat_add, show (0x8000#16).toNat = 0x8000 from rfl]
  have := (k.coefficient .fbAlpha).isLt
  split <;> split <;> split <;> omega

theorem Core.iirStage_eq (k : Core) (src dst x : Int) (inCoef : RevCoef) :
    k.iirStage src dst x inCoef = iirValue k src dst x inCoef := rfl

theorem Core.mixDestA_eq (k : Core) (acc fa : Int) : k.mixDestA acc fa = mixAValue k acc fa := rfl

theorem Core.mixDestB_eq (k : Core) (acc fa fb : Int) : k.mixDestB acc fa fb = mixBValue k acc fa fb := by
  rw [mixDestB, fbAlphaFlipped_eq]
  rfl

theorem State.tap_eq (cfg : Config) (s : State) (k : Core) (name : RevOff) : s.tap cfg k name = tapValue cfg s k name := rfl

theorem State.setTap_eq (cfg : Config) (s : State) (k : Core) (name : RevOff) (ahead : Nat) (x : Int) :
    s.setTap cfg k name ahead x = tapStore cfg k name ahead x s := rfl

/-! ## The eight stores (44_reverb.md R227) -/

theorem State.reverbIir_eq (cfg : Config) (s : State) (k : Core) (xl xr : Int) :
    s.reverbIir cfg k xl xr = afterIir cfg k xl xr s := by
  simp only [reverbIir, afterIir, tap_eq, setTap_eq, Core.iirStage_eq]

theorem State.reverbMix_eq (cfg : Config) (s : State) (k : Core) : s.reverbMix cfg k = afterMix cfg k s := by
  simp only [reverbMix, afterMix, tap_eq, setTap_eq, Core.mixDestA_eq, Core.mixDestB_eq]
  rfl

/-! ## The odd tick -/

/-- Sample RAM and cache as the network of an odd tick on core `c` leaves them, the rest as in `s` (44_reverb.md R226 to R233). -/
def State.afterNetwork (cfg : Config) (s : State) (c : CoreId) (x : Sig) : State :=
  (s.reverbIir cfg (s.core c) (cfg.reverbLpf (s.core c).revHeld.l (toI16 x.l)).toInt
    (cfg.reverbLpf (s.core c).revHeld.r (toI16 x.r)).toInt).reverbMix cfg (s.core c)

/-- The result of an odd tick on core `c` (44_reverb.md R234). -/
def State.oddResult (cfg : Config) (s : State) (c : CoreId) (x : Sig) : Sig :=
  (s.afterNetwork cfg c x).reverbReadback cfg (s.core c)

theorem RegionWrite.afterNetwork (cfg : Config) (s : State) (c : CoreId) (x : Sig) :
    RegionWrite cfg (s.core c) s (s.afterNetwork cfg c x) := .network cfg s (s.core c) _ _

/-- A saturated value is in i16 range: it is kept as it is (44_reverb.md R234). -/
theorem toInt_toI16_clip (x : Int) : (toI16 (clip x)).toInt = clip x := toInt_toI16_sat16 x

/-- An odd tick is its network, then one change of core `c`: the result is kept, the cursor advances (R234, R235). -/
theorem State.reverbOdd_eq (cfg : Config) (s : State) (c : CoreId) (x : Sig) :
    s.reverbOdd cfg c x =
      ((s.afterNetwork cfg c x).modCore c fun k =>
        { k with revLast := ⟨toI16 (s.oddResult cfg c x).l, toI16 (s.oddResult cfg c x).r⟩, revCursor := (s.core c).nextCursor },
      s.oddResult cfg c x) := rfl

theorem State.core_reverbOdd (cfg : Config) (s : State) (c : CoreId) (x : Sig) :
    (s.reverbOdd cfg c x).1.core c =
      { s.core c with revLast := ⟨toI16 (s.oddResult cfg c x).l, toI16 (s.oddResult cfg c x).r⟩
                      revCursor := (s.core c).nextCursor } := by
  rw [reverbOdd_eq, core_modCore_same, (RegionWrite.afterNetwork cfg s c x).core]

theorem State.afterNetwork_eq (cfg : Config) (s : State) (c : CoreId) (x : Sig) :
    s.afterNetwork cfg c x =
      afterMix cfg (s.core c) (afterIir cfg (s.core c) (cfg.reverbLpf (s.core c).revHeld.l (BitVec.ofInt 16 x.l)).toInt
        (cfg.reverbLpf (s.core c).revHeld.r (BitVec.ofInt 16 x.r)).toInt s) := by
  rw [afterNetwork, reverbIir_eq, reverbMix_eq, toI16, toI16]

/-- The buffer fits in sample RAM, so the cursor is stored as it is (44_reverb.md R221, R235). -/
theorem Core.toNat_nextCursor (k : Core) : k.nextCursor.toNat = (k.revCursor.toNat + 1) % k.bufferLen := by
  have hlen : k.bufferLen ≤ 2 ^ 20 := by
    have := k.esa.isLt
    have := k.eea.isLt
    unfold bufferLen bufferStart bufferEnd
    omega
  have hlt : (k.revCursor.toNat + 1) % k.bufferLen < k.bufferLen := Nat.mod_lt _ (Nat.succ_pos _)
  rw [nextCursor, BitVec.toNat_ofNat, Nat.mod_eq_of_lt (hlt.trans_le hlen)]

theorem Core.nextCursor_lt (k : Core) : k.nextCursor.toNat < k.bufferLen := by
  rw [toNat_nextCursor]
  exact Nat.mod_lt _ (Nat.succ_pos _)

/-- Settles O58: the network is the eight stores of `afterIir` and `afterMix` (`State.afterNetwork_eq`) and changes nothing outside
the region (`RegionWrite.afterNetwork`); the core's last change is `State.core_reverbOdd`. -/
theorem reverbOddTick : Obligations.ReverbOddTick := by
  intro cfg s c x hs k n t xl xr m
  have ht : t = s.reverbOdd cfg c x := State.reverbTick_odd cfg hs c x
  have hm : s.afterNetwork cfg c x = m := State.afterNetwork_eq cfg s c x
  have hw : RegionWrite cfg k s m := hm ▸ .afterNetwork cfg s c x
  have hcore := State.core_reverbOdd cfg s c x
  have hres : s.oddResult cfg c x = m.reverbReadback cfg k := congrArg (fun u => State.reverbReadback cfg u k) hm
  have hmem : t.1.mem = m.mem := by rw [ht, State.reverbOdd_eq, State.mem_modCore, hm]
  have hcache : t.1.cache = m.cache := by rw [ht, State.reverbOdd_eq, State.cache_modCore, hm]
  have hsig : t.2 = m.reverbReadback cfg k := by rw [ht, ← hres]; rfl
  rw [← ht, hres] at hcore
  rw [hsig, hcore]
  refine ⟨⟨hmem, hcache, rfl, rfl⟩, fun b hb => hmem ▸ hw.byte b hb, k.toNat_nextCursor, k.nextCursor_lt,
    le_clip _, clip_le _, le_clip _, clip_le _, ?lastL, ?lastR, rfl, rfl, ?other, ?globals⟩
  case lastL => exact toInt_toI16_clip _
  case lastR => exact toInt_toI16_clip _
  case other => rw [ht, State.reverbOdd_eq, State.core_modCore_other, hm, hw.core]
  case globals =>
    rw [ht, State.reverbOdd_eq, hm]
    exact hw.globals.trans (by simp [SameGlobals])

end Sys2Proof.Machine
end

section
/-! PROOFS, family 44_reverb.md: a silent reverb stays silent (O59). -/

namespace Sys2Proof.Machine

/-! ## The formulas on zeros (44_reverb.md R229 to R232) -/

theorem Core.iirStage_zero (k : Core) (inCoef : RevCoef) : k.iirStage 0 0 0 inCoef = 0 := by simp [iirStage, asr]

theorem Core.accRaw_zero (k : Core) : k.accRaw 0 0 0 0 = 0 := by simp [accRaw]

theorem Core.mixDestA_zero (k : Core) : k.mixDestA 0 0 = 0 := by simp [mixDestA, asr]

theorem Core.mixDestB_zero (k : Core) : k.mixDestB 0 0 0 = 0 := by simp [mixDestB, asr]

/-! ## The region of 0 (44_reverb.md R236 b) -/

/-- Every word of `k`'s reverb region is 0, in a memory of canonical form. -/
structure SilentRegion (cfg : Config) (k : Core) (s : State) : Prop where
  wf : Memory.wf cfg s.mem
  zero : ∀ a : Addr, InReverbRegion k a.toNat → s.memRead cfg a = 0#16

/-- Every tap is inside the region. -/
theorem SilentRegion.tap {cfg : Config} {k : Core} {s : State} (h : SilentRegion cfg k s) (name : RevOff) :
    s.tap cfg k name = 0 := by
  rw [State.tap, h.zero _ (k.tapAddr_range name 0), BitVec.toInt_zero]

theorem SilentRegion.setTap_zero {cfg : Config} {k : Core} {s : State} (h : SilentRegion cfg k s) (name : RevOff) (ahead : Nat) :
    SilentRegion cfg k (s.setTap cfg k name ahead 0) := by
  refine ⟨Memory.wf_setWord h.wf _ _, fun a ha => ?_⟩
  rw [State.setTap, State.memRead_memWrite h.wf.1]
  split
  · rfl
  · exact h.zero a ha

theorem SilentRegion.reverbIir {cfg : Config} {k : Core} {s : State} (h : SilentRegion cfg k s) :
    SilentRegion cfg k (s.reverbIir cfg k 0 0) := by
  simp only [State.reverbIir, h.tap, Core.iirStage_zero]
  exact (((h.setTap_zero _ _).setTap_zero _ _).setTap_zero _ _).setTap_zero _ _

theorem SilentRegion.reverbMix {cfg : Config} {k : Core} {s : State} (h : SilentRegion cfg k s) :
    SilentRegion cfg k (s.reverbMix cfg k) := by
  simp only [State.reverbMix, h.tap, Core.accRaw_zero, Core.mixDestA_zero, Core.mixDestB_zero]
  exact (((h.setTap_zero _ _).setTap_zero _ _).setTap_zero _ _).setTap_zero _ _

theorem SilentRegion.reverbReadback {cfg : Config} {k : Core} {s : State} (h : SilentRegion cfg k s) :
    s.reverbReadback cfg k = silence := by
  simp only [State.reverbReadback, h.tap]
  rfl

/-- On silence the low-pass answers 0, so the network stores 0 everywhere. -/
theorem SilentRegion.afterNetwork {cfg : Config} {s : State} {c : CoreId} (h : SilentRegion cfg (s.core c) s)
    (hl : (s.core c).revHeld.l = 0#16) (hr : (s.core c).revHeld.r = 0#16) :
    SilentRegion cfg (s.core c) (s.afterNetwork cfg c silence) := by
  have hx : (cfg.reverbLpf 0#16 (toI16 0)).toInt = 0 := congrArg BitVec.toInt cfg.reverbLpf_silence
  simp only [State.afterNetwork, hl, hr, silence, hx]
  exact h.reverbIir.reverbMix

/-- Settles O59: the network leaves the region silent, and its last change, of core `c` alone, leaves memory as it is. -/
theorem silentReverbStaysSilent : Obligations.SilentReverbStaysSilent := by
  intro cfg s c hwf hs hl hr hzero t
  have ht : t = s.reverbOdd cfg c silence := State.reverbTick_odd cfg hs c silence
  have hn := SilentRegion.afterNetwork ⟨hwf, hzero⟩ hl hr
  have hres : t.2 = silence := by rw [ht]; exact hn.reverbReadback
  refine ⟨congrArg Sig.l hres, congrArg Sig.r hres, fun a ha => ?_⟩
  rw [ht, State.reverbOdd_eq, State.memRead, State.mem_modCore]
  exact hn.zero a ha

end Sys2Proof.Machine
end

section
/-! PROOFS, family 45_commands.md: the sequencer (O5, O6, O10) and the commands with a one-line effect (O15, O28, O30, O31). -/

namespace Sys2Proof.Machine

-- As in Tests/Slice0.lean: elaborated at once, these theorems ask for more threads than the check's memory limit allows.
set_option Elab.async false

/-! ## What a step does with the next event (45_commands.md R253) -/

theorem step_of_word {s : State} {w : CmdWord} {inputs : SampleInputs} {rest : List PortEvent}
    (h : s.io.pending = .word w inputs :: rest) : step s = wordStep w (s.accept rest inputs) := by
  simp only [step, h, eventStep]

/-- Outside a burst the word is a command. -/
theorem step_of_command {s : State} {w : CmdWord} {inputs : SampleInputs} {rest : List PortEvent}
    (h : s.io.pending = .word w inputs :: rest) (hb : s.burstRemaining = 0#16) :
    step s = commandStep w (s.accept rest inputs) := (step_of_word h).trans (if_pos hb)

/-- Inside a burst the word is payload, whatever its bits (30_encoding.md R94). -/
theorem step_of_payload {s : State} {w : CmdWord} {inputs : SampleInputs} {rest : List PortEvent}
    (h : s.io.pending = .word w inputs :: rest) (hb : s.burstRemaining ≠ 0#16) :
    step s = .next ((s.accept rest inputs).payload config w) := (step_of_word h).trans (if_neg hb)

theorem commandStep_of_ok {w : CmdWord} {i : Instr} (h : decode w = .ok i) (s : State) : commandStep w s = exec i s := by
  rw [commandStep, h]

theorem commandStep_of_error {w : CmdWord} {e : DecodeError} (h : decode w = .error e) (s : State) :
    commandStep w s = .next (flagErr e s) := by rw [commandStep, h]

/-- Settles O5: the word is a command, and the decoder accepts it. -/
theorem stepRunsDecodedCommand : Obligations.StepRunsDecodedCommand :=
  fun _ _ _ _ _ hp hb hd => (step_of_command hp hb).trans (commandStep_of_ok hd _)

/-- Settles O6: the word is a command, and the decoder rejects it. -/
theorem stepFlagsIllegalWord : Obligations.StepFlagsIllegalWord :=
  fun _ _ _ _ _ hp hb hd => ⟨_, (step_of_command hp hb).trans (commandStep_of_error hd _), flagErr_cmdErr _ _,
    flagErr_errCode _ _, fun _ => rfl, rfl, ⟨rfl, rfl⟩, rfl, rfl, rfl, rfl, rfl, rfl⟩

/-! ## No state stops the machine (60_exceptions.md R309) -/

theorem execRreg_answers (c : CoreId) (reg : BitVec 9) (s : State) : ∃ t, execRreg c reg s = .next t := by
  unfold execRreg
  split
  · exact ⟨_, rfl⟩
  · exact ⟨_, rfl⟩

/-- Every instruction answers a next state, by the cases of `exec_cases`. -/
theorem exec_answers (i : Instr) (s : State) : ∃ t, exec i s = .next t := by
  rcases exec_cases i s with hn | hv | hk | ⟨c, d, rfl⟩ | ⟨c, d, rfl | rfl⟩ | ⟨c, d, rfl⟩ | ⟨c, d, rfl⟩ | ⟨c, d, rfl⟩
    | ⟨c, d, rfl⟩ | ⟨c, d, rfl⟩ | ⟨c, reg, rfl⟩ | ⟨c, n, rfl⟩ | rfl | rfl
  · exact ⟨s, hn⟩
  · obtain ⟨c, v, k, d, f, he, -, -⟩ := hv
    exact ⟨_, he⟩
  · obtain ⟨c, reg, d, f, he, -, -⟩ := hk
    exact ⟨_, he⟩
  -- `ATTR`, both `ENDX`, both `KON`, both `KOFF` and `DATA`
  iterate 8
    · exact ⟨_, rfl⟩
  · exact execRreg_answers c reg s
  · exact ⟨_, rfl⟩
  · exact ⟨_, exec_tick s⟩
  · exact ⟨_, rfl⟩

theorem wordStep_answers (w : CmdWord) (s : State) : ∃ t, wordStep w s = .next t := by
  unfold wordStep commandStep
  split
  · split
    · exact exec_answers _ s
    · exact ⟨_, rfl⟩
  · exact ⟨_, rfl⟩

/-- Settles O10, by the event on the port: none, the `rst` port, a word. -/
theorem everyStepAnswersNext : Obligations.EveryStepAnswersNext := by
  intro s
  unfold step
  split
  · exact ⟨s, rfl⟩
  · rename_i e rest _
    cases e with
    | rst => exact ⟨_, rfl⟩
    | word w inputs => exact wordStep_answers w _

/-! ## `NOP`, read-only registers, the header of a burst, `RESET` (R250, R254, R284, R252) -/

/-- Settles O15: the six meanings answer the state they got. -/
theorem readOnlyWriteIsIgnored : Obligations.ReadOnlyWriteIsIgnored := fun _ _ _ _ => ⟨rfl, rfl, rfl, rfl, rfl, rfl⟩

/-- Settles O28: the meaning of `NOP` answers the state it got. -/
theorem nopChangesNothing : Obligations.NopChangesNothing := fun _ => rfl

/-- Settles O30: the header sets the two burst fields of the state. -/
theorem dmawStartsBurst : Obligations.DmawStartsBurst :=
  fun _ _ _ => ⟨_, rfl, rfl, rfl, fun _ => rfl, rfl, ⟨rfl, rfl⟩, rfl, rfl, rfl, rfl, rfl, rfl⟩

/-- Settles O31: the meaning of `RESET` is the reset state with the memory and the ports of before. -/
theorem resetCommandKeepsMemoryOnly : Obligations.ResetCommandKeepsMemoryOnly := fun _ => ⟨_, rfl, fun _ => rfl, rfl⟩

end Sys2Proof.Machine
end

section
/-! PROOFS, family 45_commands.md: `WREG` of a voice register (O11 to O14). -/

namespace Sys2Proof.Machine

-- As in Tests/Slice0.lean: elaborated at once, these theorems ask for more threads than the check's memory limit allows.
set_option Elab.async false

/-- An instruction that is a plain `WREG` of voice register `k` meets `VoiceWrite` with the voice its effect leaves. -/
theorem exec_voiceWrite {i : Instr} {s : State} {c : CoreId} {v : VoiceId} {k : BitVec 4} {d : Half} {f : Voice → Voice}
    {n : Nat} {vc : Voice} (he : exec i s = .next (s.wregVoice c v k d f)) (hf : f (s.voice c v) = vc)
    (hn : k.toNat = n := by rfl) : ∃ t, exec i s = .next t ∧ VoiceWrite c v n d vc s t :=
  ⟨_, he, hn ▸ hf ▸ voiceWrite_wregVoice s c v k d f⟩

/-- The same with a slide `x` of the voice as the register, written as R256 says. -/
theorem exec_voiceSlideWrite {i : Instr} {s : State} {c : CoreId} {v : VoiceId} {k : BitVec 4} {d : Half} {f : Voice → Voice}
    {n : Nat} {x : Slide} {vc : Slide → Voice} (he : exec i s = .next (s.wregVoice c v k d f))
    (hf : f (s.voice c v) = vc (writeSlide d x)) (hn : k.toNat = n := by rfl) :
    ∃ y t, SlideWritten d x y ∧ exec i s = .next t ∧ VoiceWrite c v n d (vc y) s t :=
  have ⟨t, ht, hw⟩ := exec_voiceWrite he hf hn
  ⟨_, t, slideWritten_writeSlide d x, ht, hw⟩

/-- Settles O11: both registers are plain writes of a slide of the voice. -/
theorem voiceVolumeWrite : Obligations.VoiceVolumeWrite :=
  fun _ _ _ _ => ⟨exec_voiceSlideWrite rfl rfl, exec_voiceSlideWrite rfl rfl⟩

/-- Settles O12: a plain write, whose effect is the field itself. -/
theorem voicePitchWrite : Obligations.VoicePitchWrite := fun _ _ _ _ => exec_voiceWrite rfl rfl

theorem writeAdsr1_eq (d : Half) (a : Adsr) : writeAdsr1 d a = { a with
    attackMode := d.getLsbD 15, attackRate := BitVec.ofNat 7 (d.toNat / 256), decayRate := BitVec.ofNat 4 (d.toNat / 16)
    sustainLevel := BitVec.ofNat 4 d.toNat } := by
  simp only [writeAdsr1, extractLsb'_eq_ofNat_div, pow_zero, Nat.div_one, Nat.reducePow]

theorem writeAdsr2_eq (d : Half) (a : Adsr) : writeAdsr2 d a = { a with
    sustainMode := BitVec.ofNat 3 (d.toNat / 8192), sustainRate := BitVec.ofNat 7 (d.toNat / 64)
    releaseMode := d.getLsbD 5, releaseRate := BitVec.ofNat 5 d.toNat } := by
  simp only [writeAdsr2, extractLsb'_eq_ofNat_div, pow_zero, Nat.div_one, Nat.reducePow]

/-- Settles O13: the parameters in numbers are `writeAdsr1_eq` and `writeAdsr2_eq`. -/
theorem voiceEnvelopeWrite : Obligations.VoiceEnvelopeWrite := fun _ _ _ _ =>
  ⟨exec_voiceWrite rfl (by rw [← writeAdsr1_eq]), exec_voiceWrite rfl (by rw [← writeAdsr2_eq])⟩

/-- Settles O14: the address halves in numbers are `withAddrHi_eq` and `withAddrLo_eq`. -/
theorem voiceAddressWrite : Obligations.VoiceAddressWrite := by
  intro c v d s
  simp only [← withAddrHi_eq, ← withAddrLo_eq]
  exact ⟨exec_voiceWrite rfl rfl, exec_voiceWrite rfl rfl, exec_voiceWrite rfl rfl, exec_voiceWrite rfl rfl,
    exec_voiceWrite rfl rfl, exec_voiceWrite rfl rfl⟩

end Sys2Proof.Machine
end

section
/-! PROOFS, family 45_commands.md: `WREG` of a plain core register (O16 to O19, O23, O24) and of the reverb registers (O25, O26). -/

namespace Sys2Proof.Machine

-- As in Tests/Slice0.lean: elaborated at once, these theorems ask for more threads than the check's memory limit allows.
set_option Elab.async false

/-- An instruction that is a plain `WREG` of core register `reg` meets `ControlWrite` with the core its effect leaves. -/
theorem exec_controlWrite {i : Instr} {s : State} {c : CoreId} {reg : BitVec 9} {d : Half} {f : Core → Core} {n : Nat} {k : Core}
    (he : exec i s = .next (s.wregCore c reg d f)) (hf : f (s.core c) = k) (hn : reg.toNat = n := by rfl)
    (hs : ∀ k, (f k).shadow = k.shadow := by intro; rfl) (hv : ∀ k, (f k).voices = k.voices := by intro; rfl)
    (hc : ∀ k, (f k).control = (f k.control).control := by intro; rfl) :
    ∃ t, exec i s = .next t ∧ ControlWrite c n d k s t :=
  ⟨_, he, hn ▸ hf ▸ controlWrite_wregCore s c reg d f hs hv hc⟩

/-- The same with a slide `x` of the core as the register, written as R256 says. -/
theorem exec_controlSlideWrite {i : Instr} {s : State} {c : CoreId} {reg : BitVec 9} {d : Half} {f : Core → Core} {n : Nat}
    {x : Slide} {k : Slide → Core} (he : exec i s = .next (s.wregCore c reg d f)) (hf : f (s.core c) = k (writeSlide d x))
    (hn : reg.toNat = n := by rfl) (hs : ∀ k, (f k).shadow = k.shadow := by intro; rfl)
    (hv : ∀ k, (f k).voices = k.voices := by intro; rfl)
    (hc : ∀ k, (f k).control = (f k.control).control := by intro; rfl) :
    ∃ y t, SlideWritten d x y ∧ exec i s = .next t ∧ ControlWrite c n d (k y) s t :=
  have ⟨t, ht, hw⟩ := exec_controlWrite he hf hn hs hv hc
  ⟨_, t, slideWritten_writeSlide d x, ht, hw⟩

/-- Settles O16: the mask halves in numbers are `withMaskLo_eq` and `withMaskHi_eq`. -/
theorem maskWrite : Obligations.MaskWrite := by
  intro c d s
  simp only [← withMaskLo_eq, ← withMaskHi_eq]
  exact ⟨exec_controlWrite rfl rfl, exec_controlWrite rfl rfl, exec_controlWrite rfl rfl, exec_controlWrite rfl rfl,
    exec_controlWrite rfl rfl, exec_controlWrite rfl rfl, exec_controlWrite rfl rfl, exec_controlWrite rfl rfl,
    exec_controlWrite rfl rfl, exec_controlWrite rfl rfl, exec_controlWrite rfl rfl, exec_controlWrite rfl rfl⟩

/-- The pending interrupt after a write of `ATTR` (R270). -/
theorem writeAttr_eq (d : Half) (k : Core) : writeAttr d k = { k with
    fxEn := d.getLsbD 0, irqEn := d.getLsbD 1, irqPending := if d.getLsbD 1 then k.irqPending else false } := by
  rw [writeAttr]
  cases d.getLsbD 1 <;> simp

theorem mmixBits_eq (d : Half) : d.extractLsb' 0 12 = BitVec.ofNat 12 d.toNat := by
  rw [extractLsb'_eq_ofNat_div, pow_zero, Nat.div_one]

/-- Settles O17: the gates are the low twelve bits (`mmixBits_eq`), the enables and the pending bit are `writeAttr_eq`. -/
theorem mixGateAndAttrWrite : Obligations.MixGateAndAttrWrite := by
  intro c d s
  simp only [← mmixBits_eq, ← writeAttr_eq]
  exact ⟨exec_controlWrite rfl rfl, exec_controlWrite rfl rfl⟩

/-- Settles O18: the address halves in numbers; `TSA` writes the same new address to `tsa` and `tda`. -/
theorem matchAndTransferAddressWrite : Obligations.MatchAndTransferAddressWrite := by
  intro c d s
  simp only [← withAddrHi_eq, ← withAddrLo_eq]
  exact ⟨exec_controlWrite rfl rfl, exec_controlWrite rfl rfl, exec_controlWrite rfl rfl, exec_controlWrite rfl rfl⟩

/-- Settles O19: the address halves in numbers; the effect leaves the cursor out. -/
theorem effectsRegionWrite : Obligations.EffectsRegionWrite := by
  intro c d s
  simp only [← withAddrHi_eq, ← withAddrLo_eq]
  exact ⟨exec_controlWrite rfl rfl, exec_controlWrite rfl rfl, exec_controlWrite rfl rfl, exec_controlWrite rfl rfl⟩

/-- Settles O23: the effect of either half is the same, and does not read `d`. -/
theorem endxWrite : Obligations.EndxWrite := fun _ _ _ => ⟨exec_controlWrite rfl rfl, exec_controlWrite rfl rfl⟩

/-- Settles O24: six plain writes of a slide of the core. -/
theorem coreVolumeWrite : Obligations.CoreVolumeWrite := fun _ _ _ =>
  ⟨exec_controlSlideWrite rfl rfl, exec_controlSlideWrite rfl rfl, exec_controlSlideWrite rfl rfl,
    exec_controlSlideWrite rfl rfl, exec_controlSlideWrite rfl rfl, exec_controlSlideWrite rfl rfl⟩

/-! ## The reverb registers (R280, R282) -/

theorem revOffs_offIndex (k : RevOff) : revOffs[(offIndex k).val]? = some k := by cases k <;> rfl

theorem revCoefs_coefIndex (k : RevCoef) : revCoefs[(coefIndex k).val]? = some k := by cases k <;> rfl

/-- Two offsets with one number are the same name: the table of R51 names it. -/
theorem offIndex_injective : Function.Injective offIndex := fun j k h =>
  Option.some.inj (by rw [← revOffs_offIndex j, ← revOffs_offIndex k, h])

/-- Two coefficients with one number are the same name: the table of R52 names it. -/
theorem coefIndex_injective : Function.Injective coefIndex := fun j k h =>
  Option.some.inj (by rw [← revCoefs_coefIndex j, ← revCoefs_coefIndex k, h])

theorem Core.offset_setOffset (k : Core) (name j : RevOff) (a : Addr) :
    (k.setOffset name a).offset j = if j = name then a else k.offset j := by
  simp only [offset, setOffset, Vector.getElem_set, Fin.val_inj, offIndex_injective.eq_iff, eq_comm]

theorem Core.coefficient_setCoefficient (k : Core) (name j : RevCoef) (x : Half) :
    (k.setCoefficient name x).coefficient j = if j = name then x else k.coefficient j := by
  simp only [coefficient, setCoefficient, Vector.getElem_set, Fin.val_inj, coefIndex_injective.eq_iff, eq_comm]

theorem exec_wregOffHiInstr (k : RevOff) (c : CoreId) (d : Half) (s : State) : exec (wregOffHiInstr k c d) s =
    .next (s.wregOffHi c (BitVec.ofNat 9 (0x1C0 + 2 * (offIndex k).val)) k d) := by cases k <;> rfl

theorem exec_wregOffLoInstr (k : RevOff) (c : CoreId) (d : Half) (s : State) : exec (wregOffLoInstr k c d) s =
    .next (s.wregOffLo c (BitVec.ofNat 9 (0x1C1 + 2 * (offIndex k).val)) k d) := by cases k <;> rfl

theorem exec_wregCoefInstr (k : RevCoef) (c : CoreId) (d : Half) (s : State) : exec (wregCoefInstr k c d) s =
    .next (s.wregCoef c (BitVec.ofNat 9 (0x1F0 + (coefIndex k).val)) k d) := by cases k <;> rfl

/-- A `WREG` that replaces one half of the offset `name` leaves every other offset and the rest of the core alone. -/
theorem offsetWrite_wregCore (s : State) (c : CoreId) (reg : BitVec 9) (d : Half) (name : RevOff) (half : Addr → Addr) {t : State}
    (ht : s.wregCore c reg d (fun k => k.setOffset name (half (k.offset name))) = t) :
    ControlWrite c reg.toNat d { s.core c with off := (t.core c).off } s t
      ∧ (t.core c).offset name = half ((s.core c).offset name)
      ∧ ∀ j, j ≠ name → (t.core c).offset j = (s.core c).offset j := by
  have hcore : t.core c = Core.setOffset { s.core c with shadow := (s.core c).shadow.set reg.toNat d } name
      (half ((s.core c).offset name)) := by rw [← ht, State.core_wregCore, if_pos rfl]; rfl
  refine ⟨?_, ?_, fun j hj => ?_⟩
  · rw [hcore, ← ht]
    exact controlWrite_wregCore s c reg d _ (fun _ => rfl) (fun _ => rfl) (fun _ => rfl)
  · rw [hcore, Core.offset_setOffset, if_pos rfl]
  · rw [hcore, Core.offset_setOffset, if_neg hj]
    rfl

/-- A `WREG` of a coefficient leaves every other coefficient and the rest of the core alone. -/
theorem coefficientWrite_wregCoef (s : State) (c : CoreId) (reg : BitVec 9) (d : Half) (name : RevCoef) {t : State}
    (ht : s.wregCoef c reg name d = t) :
    ControlWrite c reg.toNat d { s.core c with coef := (t.core c).coef } s t ∧ (t.core c).coefficient name = d
      ∧ ∀ j, j ≠ name → (t.core c).coefficient j = (s.core c).coefficient j := by
  have hcore : t.core c = Core.setCoefficient { s.core c with shadow := (s.core c).shadow.set reg.toNat d } name d := by
    rw [← ht, State.wregCoef, State.core_wregCore, if_pos rfl]
  refine ⟨?_, ?_, fun j hj => ?_⟩
  · rw [hcore, ← ht]
    exact controlWrite_wregCore s c reg d _ (fun _ => rfl) (fun _ => rfl) (fun _ => rfl)
  · rw [hcore, Core.coefficient_setCoefficient, if_pos rfl]
  · rw [hcore, Core.coefficient_setCoefficient, if_neg hj]
    rfl

/-- The number of a reverb register as its index (10_state.md R51, R52). -/
theorem toNat_reverbIndex {n : Nat} (h : n < 512) : (BitVec.ofNat 9 n).toNat = n := by
  rw [BitVec.toNat_ofNat, Nat.mod_eq_of_lt h]

/-- Settles O25: 48 instructions, two shapes (`exec_wregOffHiInstr`, `exec_wregOffLoInstr`), one effect (`offsetWrite_wregCore`). -/
theorem reverbOffsetWrite : Obligations.ReverbOffsetWrite := by
  intro k c d s
  refine ⟨⟨_, exec_wregOffHiInstr k c d s, ?_⟩, ⟨_, exec_wregOffLoInstr k c d s, ?_⟩⟩
  · have h := offsetWrite_wregCore s c (BitVec.ofNat 9 (0x1C0 + 2 * (offIndex k).val)) d k (withAddrHi · d) rfl
    rwa [toNat_reverbIndex (by omega), withAddrHi_eq] at h
  · have h := offsetWrite_wregCore s c (BitVec.ofNat 9 (0x1C1 + 2 * (offIndex k).val)) d k (withAddrLo · d) rfl
    rwa [toNat_reverbIndex (by omega), withAddrLo_eq] at h

/-- Settles O26: ten instructions, one shape (`exec_wregCoefInstr`), one effect (`coefficientWrite_wregCoef`). -/
theorem reverbCoefficientWrite : Obligations.ReverbCoefficientWrite := by
  intro k c d s
  refine ⟨_, exec_wregCoefInstr k c d s, ?_⟩
  have h := coefficientWrite_wregCoef s c (BitVec.ofNat 9 (0x1F0 + (coefIndex k).val)) d k rfl
  rwa [toNat_reverbIndex (by omega)] at h

end Sys2Proof.Machine
end

section
/-! PROOFS, family 45_commands.md: key events (O20, O21), `DATA` (O22), and what a `WREG` leaves alone (O27). -/

namespace Sys2Proof.Machine

-- As in Tests/Slice0.lean: elaborated at once, these theorems ask for more threads than the check's memory limit allows.
set_option Elab.async false

/-! ## What every write of a core register leaves alone (R251) -/

theorem SameOutside.refl (c : CoreId) (s : State) : SameOutside c s s := ⟨fun _ => rfl, rfl, rfl, .refl s⟩

/-- Whatever the effect on the core. -/
theorem sameOutside_wregCore (s : State) (c : CoreId) (reg : BitVec 9) (d : Half) (f : Core → Core) :
    SameOutside c s (s.wregCore c reg d f) := by
  refine ⟨State.readByte_of_mem_eq (State.mem_wregCore ..), ?_, ?_, ?_⟩
  · rw [State.wregCore, State.cache_modCore, State.cache_setShadow]
  · rw [State.core_wregCore, if_neg (otherCore_ne c)]
  · simp [SameGlobals, State.wregCore]

theorem sameOutside_wregVoice (s : State) (c : CoreId) (v : VoiceId) (k : BitVec 4) (d : Half) (f : Voice → Voice) :
    SameOutside c s (s.wregVoice c v k d f) := sameOutside_wregCore s c (voiceIndex v k) d fun k => k.modVoice v f

/-! ## Key events (R271 to R274) -/

/-- A key event touches its own voice, as `f` says, and beside it ENDX alone. -/
structure KeyEvent (g : Core → VoiceId → Core) (f : Voice → Voice) : Prop where
  voice : ∀ k v w, (g k v).voice w = if w = v then f (k.voice v) else k.voice w
  shadow : ∀ k v, (g k v).shadow = k.shadow
  control : ∀ k v, { (g k v).control with endx := 0#24 } = { k.control with endx := 0#24 }

theorem keyEvent_keyOn (cfg : Config) : KeyEvent (Core.keyOn cfg) (Voice.keyOn cfg) :=
  ⟨Core.voice_keyOn cfg, fun _ _ => rfl, fun _ _ => rfl⟩

theorem keyEvent_keyOff : KeyEvent Core.keyOff Voice.keyOff := ⟨Core.voice_keyOff, fun _ _ => rfl, fun _ _ => rfl⟩

/-- The control fields of a core after a key event over a mask. -/
theorem KeyEvent.control_forMask {g : Core → VoiceId → Core} {f : Voice → Voice} (hg : KeyEvent g f) (k : Core) (m : VoiceMask) :
    (k.forMask m g).control = { k.control with endx := (k.forMask m g).endx } :=
  congrArg (fun x : Core => { x with endx := (k.forMask m g).endx })
    (Core.forMask_keeps (fun k => { k.control with endx := 0#24 }) k m hg.control)

/-- A `WREG` whose effect is a key event over a mask. -/
theorem KeyEvent.keyWrite {g : Core → VoiceId → Core} {f : Voice → Voice} (hg : KeyEvent g f) {event : Voice → Voice → Prop}
    (hf : ∀ x, event x (f x)) {m : VoiceMask} {sel : VoiceId → Bool} (hm : ∀ v, maskBit m v = sel v) (s : State) (c : CoreId)
    (reg : BitVec 9) (d : Half) : KeyWrite c reg.toNat d sel event s (s.wregCore c reg d (·.forMask m g)) := by
  have hcore : (s.wregCore c reg d (·.forMask m g)).core c = ((s.setShadow c reg d).core c).forMask m g :=
    State.core_modCore_same ..
  refine ⟨fun r => ?_, fun v => ?_, ?_, sameOutside_wregCore ..⟩
  · rw [← State.shadowAt_setShadow]
    simp only [State.shadowAt, hcore, Core.forMask_keeps Core.shadow _ m hg.shadow]
  · have hvoice : (s.wregCore c reg d (·.forMask m g)).voice c v = if sel v then f (s.voice c v) else s.voice c v := by
      rw [State.voice, hcore, Core.forMask_spec _ m hg.voice, ← State.voice, State.voice_setShadow, hm]
    rw [hvoice]
    split
    · exact hf _
    · rfl
  · rw [hcore, hg.control_forMask, State.control_setShadow]

/-- Key-on over a mask: the selected ENDX bits are cleared, and no other. -/
theorem endx_wregCore_keyOn {m : VoiceMask} {sel : VoiceId → Bool} (hm : ∀ v, maskBit m v = sel v) (s : State) (c : CoreId)
    (reg : BitVec 9) (d : Half) (v : VoiceId) :
    maskBit ((s.wregCore c reg d (·.forMask m (Core.keyOn config))).core c).endx v
      = (maskBit (s.core c).endx v && !sel v) := by
  rw [State.core_wregCore, if_pos rfl, Core.endx_forMask_keyOn, hm]

/-- Key-off changes no ENDX bit. -/
theorem endx_wregCore_keyOff (s : State) (c : CoreId) (reg : BitVec 9) (d : Half) (m : VoiceMask) :
    ((s.wregCore c reg d (·.forMask m Core.keyOff)).core c).endx = (s.core c).endx := by
  rw [State.core_wregCore, if_pos rfl, Core.forMask_keeps Core.endx _ m (g := Core.keyOff) fun _ _ => rfl]

/-- Settles O20: a key event over the selected mask (`KeyEvent.keyWrite`), each voice keyed on as `keyedOn_keyOn` says. -/
theorem keyOnWrite : Obligations.KeyOnWrite := fun c d s =>
  ⟨⟨_, rfl, (keyEvent_keyOn config).keyWrite (keyedOn_keyOn config) (loMask_bit d) s c _ d,
      endx_wregCore_keyOn (loMask_bit d) s c _ d⟩,
    ⟨_, rfl, (keyEvent_keyOn config).keyWrite (keyedOn_keyOn config) (hiMask_bit d) s c _ d,
      endx_wregCore_keyOn (hiMask_bit d) s c _ d⟩⟩

/-- Settles O21: a key event over the selected mask, each voice keyed off as `keyedOff_keyOff` says. -/
theorem keyOffWrite : Obligations.KeyOffWrite := fun c d s =>
  ⟨⟨_, rfl, keyEvent_keyOff.keyWrite keyedOff_keyOff (loMask_bit d) s c _ d, endx_wregCore_keyOff s c _ d _⟩,
    ⟨_, rfl, keyEvent_keyOff.keyWrite keyedOff_keyOff (hiMask_bit d) s c _ d, endx_wregCore_keyOff s c _ d _⟩⟩

/-! ## `DATA` (R281) -/

theorem State.core_setShadow (s : State) (c e : CoreId) (reg : BitVec 9) (d : Half) :
    (s.setShadow c reg d).core e = { s.core e with shadow := ((s.setShadow c reg d).core e).shadow } := by
  cases c <;> cases e <;> rfl

/-- A host memory write neither reads nor writes the register shadow. -/
theorem HostWrite.of_shadow {c : CoreId} {d : Half} {s u t : State} (h : HostWrite c d u t) (hm : u.mem = s.mem)
    (hc : u.cache = s.cache) (hk : ∀ e, u.core e = { s.core e with shadow := (u.core e).shadow }) : HostWrite c d s t := by
  have hread : ∀ b, u.readByte b = s.readByte b := State.readByte_of_mem_eq hm
  have htda : ∀ e, (u.core e).tda = (s.core e).tda := fun e => by rw [hk]
  have hirq : ∀ e a, ((u.core e).irqPending || ((u.core e).irqEn && (u.core e).irqAddr == a))
      = ((s.core e).irqPending || ((s.core e).irqEn && (s.core e).irqAddr == a)) := fun e a => by rw [hk]
  simp only [HostWrite, SameMemoryBut, hread, htda, hirq, hc] at h ⊢
  obtain ⟨hother, hlow, hhigh, hcache, hnext, hstay, hpend, hframe⟩ := h
  exact ⟨hother, hlow, hhigh, hcache, hnext, hstay, hpend, fun e => by rw [hframe e, hk e]⟩

theorem shadow_hostMemWrite (cfg : Config) (s : State) (c e : CoreId) (d : Half) :
    ((s.hostMemWrite cfg c d).core e).shadow = (s.core e).shadow := by
  rw [State.core_hostMemWrite]
  split
  · exact Core.shadow_irqCheck ..
  · exact Core.shadow_irqCheck ..

theorem shadowAt_hostMemWrite (cfg : Config) (s : State) (c e : CoreId) (d : Half) (r : BitVec 9) :
    (s.hostMemWrite cfg c d).shadowAt e r = s.shadowAt e r := by
  simp only [State.shadowAt, shadow_hostMemWrite]

theorem globals_setShadow (s : State) (c : CoreId) (reg : BitVec 9) (d : Half) : SameGlobals s (s.setShadow c reg d) := by
  simp [SameGlobals]

/-- Settles O22: the shadow takes the word, then one host memory write happens (`hostWrite_hostMemWrite`), which does not see the
shadow. -/
theorem dataWrite : Obligations.DataWrite := by
  intro c d s hm
  have hw : HostWrite c d (s.setShadow c 0x196#9 d) ((s.setShadow c 0x196#9 d).hostMemWrite config c d) :=
    hostWrite_hostMemWrite (by rwa [State.mem_setShadow]) c d
  refine ⟨_, rfl, hw.of_shadow (State.mem_setShadow ..) (State.cache_setShadow ..) fun e => State.core_setShadow s c e _ d,
    fun r => ?_, ?_, (globals_setShadow s c _ d).trans (State.globals_hostMemWrite config _ c d)⟩
  · exact (shadowAt_hostMemWrite ..).trans (State.shadowAt_setShadow s c 0x196#9 d r)
  · rw [shadow_hostMemWrite, State.setShadow, State.core_modCore_other]

/-! ## Every `WREG` but `DATA` -/

/-- The `WREG` of a voice register is ignored, or is a plain write. -/
theorem exec_wregVoiceInstr_cases (r : VoiceReg) (c : CoreId) (v : VoiceId) (d : Half) (s : State) :
    exec (wregVoiceInstr r c v d) s = .next s
      ∨ ∃ k f, exec (wregVoiceInstr r c v d) s = .next (s.wregVoice c v k d f) := by
  cases r
  case envx | volxl | volxr => exact .inl rfl
  all_goals exact .inr ⟨_, _, rfl⟩

/-- The `WREG` of a core register but `DATA` is ignored, or is a write of that core. -/
theorem exec_wregCoreInstr_cases {r : CoreReg} (hr : r ≠ .data) (c : CoreId) (d : Half) (s : State) :
    exec (wregCoreInstr r c d) s = .next s ∨ ∃ reg f, exec (wregCoreInstr r c d) s = .next (s.wregCore c reg d f) := by
  cases r
  case data => exact absurd rfl hr
  case stat | mvolxl | mvolxr => exact .inl rfl
  case offHi k => exact .inr ⟨_, _, exec_wregOffHiInstr k c d s⟩
  case offLo k => exact .inr ⟨_, _, exec_wregOffLoInstr k c d s⟩
  case coef k => exact .inr ⟨_, _, exec_wregCoefInstr k c d s⟩
  all_goals exact .inr ⟨_, _, rfl⟩

/-- Settles O27: what is ignored changes nothing, and what is written is written in core `c`. -/
theorem wregTouchesItsCoreOnly : Obligations.WregTouchesItsCoreOnly := by
  refine fun c d s => ⟨fun r v => ?_, fun r hr => ?_⟩
  · rcases exec_wregVoiceInstr_cases r c v d s with h | ⟨k, f, h⟩
    · exact ⟨s, h, .refl c s⟩
    · exact ⟨_, h, sameOutside_wregVoice s c v k d f⟩
  · rcases exec_wregCoreInstr_cases hr c d s with h | ⟨reg, f, h⟩
    · exact ⟨s, h, .refl c s⟩
    · exact ⟨_, h, sameOutside_wregCore s c reg d f⟩

end Sys2Proof.Machine
end

section
/-! PROOFS, family 45_commands.md: what an `RREG` answers (O29). -/

namespace Sys2Proof.Machine

-- As in Tests/Slice0.lean: elaborated at once, these theorems ask for more threads than the check's memory limit allows.
set_option Elab.async false

/-! ## The read forms in numbers (10_state.md R45, R46, R50) -/

theorem toNat_addrHi (a : Addr) : (addrHi a).toNat = a.toNat / 65536 := by
  have := a.isLt
  simp only [addrHi, BitVec.toNat_setWidth, BitVec.extractLsb'_toNat, Nat.shiftRight_eq_div_pow]
  omega

theorem toNat_addrLo (a : Addr) : (addrLo a).toNat = a.toNat % 65536 := by
  simp only [addrLo, BitVec.extractLsb'_toNat, Nat.shiftRight_zero, Nat.reducePow]

theorem toNat_maskHi (m : VoiceMask) : (maskHi m).toNat = m.toNat / 65536 := by
  have := m.isLt
  simp only [maskHi, BitVec.toNat_setWidth, BitVec.extractLsb'_toNat, Nat.shiftRight_eq_div_pow]
  omega

theorem toNat_maskLo (m : VoiceMask) : (maskLo m).toNat = m.toNat % 65536 := by
  simp only [maskLo, BitVec.extractLsb'_toNat, Nat.shiftRight_zero, Nat.reducePow]

theorem toNat_envx (x : BitVec 32) : (0#1 ++ x.extractLsb' 16 15 : BitVec (1 + 15)).toNat = x.toNat / 65536 % 32768 := by
  simp only [toNat_append_parts, BitVec.extractLsb'_toNat, Nat.shiftRight_eq_div_pow, BitVec.toNat_ofNat, Nat.zero_mod,
    Nat.zero_mul, Nat.zero_add, Nat.reducePow]

theorem toNat_statWord (s : State) (c : CoreId) :
    (s.statWord c).toNat = (s.core c).irqPending.toNat + 2 * s.cmdErr.toNat + 16 * s.errCode.toNat := by
  simp only [State.statWord, toNat_append_parts, BitVec.toNat_ofBool, BitVec.toNat_ofNat]
  omega

/-! ## The register of a number (R42, R47) -/

/-- The voice register at number v*16 + k. -/
theorem reg_of_voiceNumber {reg : BitVec 9} {r : Reg} (hr : regOfIndex reg = some r) (v : VoiceId) (k : Fin 14)
    (h : reg.toNat = v.val * 16 + k.val) : r = .voice v voiceRegs[k.val] := by
  have hreg : reg = BitVec.ofNat 9 (v.val * 16 + k.val) := by rw [← h, BitVec.ofNat_toNat, BitVec.setWidth_eq]
  rw [hreg, regOfIndex_voice] at hr
  exact (Option.some.inj hr).symm

/-- The core global at number 0x180 + k. -/
theorem reg_of_globalNumber {reg : BitVec 9} {r : Reg} (hr : regOfIndex reg = some r) (k : Fin 38)
    (h : reg.toNat = 0x180 + k.val) : r = .core globalRegs[k.val] := by
  have hreg : reg = BitVec.ofNat 9 (0x180 + k.val) := by rw [← h, BitVec.ofNat_toNat, BitVec.setWidth_eq]
  rw [hreg, regOfIndex_global] at hr
  exact (Option.some.inj hr).symm

/-- The number of a voice register. -/
theorem toNat_indexOfReg_voice (v : VoiceId) (r : VoiceReg) :
    (indexOfReg (.voice v r)).toNat = v.val * 16 + voiceRegs.findIdx (· = r) := by
  rw [indexOfReg, voiceIndex_toNat]
  cases r <;> rfl

theorem liveNumber_voice (v : VoiceId) {k n : Nat} (hn : n = v.val * 16 + k) (hk : k ∈ [5, 8, 9, 10, 11, 12, 13]) :
    LiveNumber n := .inl ⟨v, hn ▸ List.mem_map_of_mem hk⟩

/-- A register whose number is not one of R283's live ones reads as its shadow. -/
theorem readReg_of_not_live {reg : BitVec 9} {r : Reg} (hr : regOfIndex reg = some r) (hl : ¬ LiveNumber reg.toNat) (s : State)
    (c : CoreId) : s.readReg c reg r = s.shadowAt c reg := by
  obtain rfl := indexOfReg_eq hr
  cases r with
  | voice v r =>
    have hnum := toNat_indexOfReg_voice v r
    cases r
    case envx | lsaHi | lsaLo | naxHi | naxLo | volxl | volxr => exact absurd (liveNumber_voice v hnum (by decide)) hl
    all_goals rfl
  | core r =>
    cases r
    case stat | endxLo | endxHi | mvolxl | mvolxr => exact absurd (.inr (by decide)) hl
    all_goals rfl

/-! ## The read (R283) -/

/-- The model's read meets the table of R283: each row's number fixes the register, whose read form in numbers is above. -/
theorem readsAs_readReg {reg : BitVec 9} {r : Reg} (hr : regOfIndex reg = some r) (s : State) (c : CoreId) :
    ReadsAs s c reg (s.readReg c reg r) := by
  have hvoice := reg_of_voiceNumber hr
  have hglobal := reg_of_globalNumber hr
  refine ⟨fun v => ⟨?envx, ?lsaHi, ?lsaLo, ?naxHi, ?naxLo, ?volxl, ?volxr⟩, ?stat, ?endxLo, ?endxHi, ?mvolxl, ?mvolxr,
    fun hl => readReg_of_not_live hr hl s c⟩
  case envx => intro h; obtain rfl := hvoice v 5 h; exact toNat_envx _
  case lsaHi => intro h; obtain rfl := hvoice v 8 h; exact toNat_addrHi _
  case lsaLo => intro h; obtain rfl := hvoice v 9 h; exact toNat_addrLo _
  case naxHi => intro h; obtain rfl := hvoice v 10 h; exact toNat_addrHi _
  case naxLo => intro h; obtain rfl := hvoice v 11 h; exact toNat_addrLo _
  case volxl => intro h; obtain rfl := hvoice v 12 h; rfl
  case volxr => intro h; obtain rfl := hvoice v 13 h; rfl
  case stat => intro h; obtain rfl := hglobal 23 h; exact toNat_statWord s c
  case endxLo => intro h; obtain rfl := hglobal 24 h; exact toNat_maskLo _
  case endxHi => intro h; obtain rfl := hglobal 25 h; exact toNat_maskHi _
  case mvolxl => intro h; obtain rfl := hglobal 32 h; rfl
  case mvolxr => intro h; obtain rfl := hglobal 33 h; rfl

theorem regOfIndex_eq_none_iff_reservedNumber (reg : BitVec 9) : regOfIndex reg = none ↔ ReservedNumber reg.toNat :=
  (regOfIndex_eq_none_iff reg).trans (reservedIndex_iff reg)

theorem execRreg_of_some {reg : BitVec 9} {r : Reg} (hr : regOfIndex reg = some r) (c : CoreId) (s : State) :
    execRreg c reg s = .next { s with rspData := s.readReg c reg r } := by
  simp only [execRreg, hr]

theorem execRreg_of_none {reg : BitVec 9} (hr : regOfIndex reg = none) (c : CoreId) (s : State) :
    execRreg c reg s = .next (flagErr .reservedRegister s) := by
  simp only [execRreg, hr]

/-- Settles O29, by whether the index names a register: if so the read is `readsAs_readReg`, if not the latch takes code 3. -/
theorem rregReads : Obligations.RregReads := by
  refine fun c reg s => ⟨fun hn => ?_, fun hn => ?_⟩
  · obtain ⟨r, hr⟩ := Option.ne_none_iff_exists'.mp (mt (regOfIndex_eq_none_iff_reservedNumber reg).mp hn)
    exact ⟨_, execRreg_of_some hr c s, readsAs_readReg hr s c, rfl⟩
  · exact ⟨_, execRreg_of_none ((regOfIndex_eq_none_iff_reservedNumber reg).mpr hn) c s, rfl⟩

end Sys2Proof.Machine
end

section
/-! PROOFS, family 45_commands.md: payload words and whole bursts (O7, O8), and the tick (O33). -/

namespace Sys2Proof.Machine

-- As in Tests/Slice0.lean: elaborated at once, these theorems ask for more threads than the check's memory limit allows.
set_option Elab.async false

/-! ## One payload word (R285) -/

theorem hostWrite_payload {s : State} (hm : Memory.wf config s.mem) (w : CmdWord) :
    HostWrite s.burstCore (dataField w) s (s.payload config w) := hostWrite_hostMemWrite hm s.burstCore (dataField w)

/-- What a payload word leaves alone of the globals: all but the burst count. -/
theorem globals_payload (cfg : Config) (s : State) (w : CmdWord) :
    SameGlobals { s with burstRemaining := s.burstRemaining - 1#16 } (s.payload cfg w) := by
  obtain ⟨htick, herr, hcode, hrem, hcore, hout, hrsp, hio⟩ := State.globals_hostMemWrite cfg s s.burstCore (dataField w)
  exact ⟨htick, herr, hcode, congrArg (· - 1#16) hrem, hcore, hout, hrsp, hio⟩

theorem shadow_payload (cfg : Config) (s : State) (w : CmdWord) (e : CoreId) :
    ((s.payload cfg w).core e).shadow = (s.core e).shadow :=
  Eq.trans (by cases e <;> rfl) (shadow_hostMemWrite cfg s s.burstCore e (dataField w))

theorem toNat_burst_pred {n : BitVec 16} (h : n ≠ 0#16) : (n - 1#16).toNat = n.toNat - 1 := by bv_omega

/-- Settles O7: the word is payload, and taking it off the port changes nothing a host memory write sees. -/
theorem stepTakesPayloadWord : Obligations.StepTakesPayloadWord := by
  intro s w inputs rest hp hb hm
  obtain ⟨htick, herr, hcode, hrem, hcore, hout, hrsp, hio⟩ := globals_payload config (s.accept rest inputs) w
  have hw : HostWrite s.burstCore (dataField w) (s.accept rest inputs) ((s.accept rest inputs).payload config w) :=
    hostWrite_payload (s := s.accept rest inputs) hm w
  refine ⟨_, step_of_payload hp hb, ?_, ?_, fun e => ?_, htick, herr, hcode, hcore, hout, hrsp, by rw [hio]; rfl⟩
  · rw [← dataField_eq]
    exact hw.of_shadow rfl rfl fun e => by rw [State.core_accept]
  · rw [hrem]
    exact toNat_burst_pred hb
  · rw [shadow_payload, State.core_accept]

/-! ## A whole burst (R285, R286) -/

/-- A state without its ports and its burst count: the part a host memory write reads and writes, and the rest of the globals. -/
def State.offPort (s : State) : State := { s with io := {}, burstRemaining := 0#16 }

theorem State.offPort_hostMemWrite (cfg : Config) (s : State) (c : CoreId) (d : Half) :
    (s.hostMemWrite cfg c d).offPort = s.offPort.hostMemWrite cfg c d := by cases c <;> rfl

theorem State.offPort_payload (cfg : Config) (s : State) (w : CmdWord) :
    (s.payload cfg w).offPort = s.offPort.hostMemWrite cfg s.burstCore (dataField w) :=
  State.offPort_hostMemWrite cfg s s.burstCore (dataField w)

theorem offPort_hostWrites (cfg : Config) (c : CoreId) (ds : List Half) (s : State) :
    (hostWrites cfg c ds s).offPort = hostWrites cfg c ds s.offPort := by
  induction ds generalizing s with
  | nil => rfl
  | cons d ds ih => exact (ih _).trans (congrArg (hostWrites cfg c ds) (State.offPort_hostMemWrite cfg s c d))

theorem globals_hostWrites (cfg : Config) (c : CoreId) (ds : List Half) (s : State) : SameGlobals s (hostWrites cfg c ds s) := by
  induction ds generalizing s with
  | nil => exact .refl s
  | cons d ds ih => exact (State.globals_hostMemWrite cfg s c d).trans (ih _)

/-- The running address advances by one with every write, wrapping (20_memory.md R63). -/
theorem tda_hostWrites (cfg : Config) (c : CoreId) (ds : List Half) (s : State) :
    ((hostWrites cfg c ds s).core c).tda = (s.core c).tda + BitVec.ofNat 20 ds.length := by
  induction ds generalizing s with
  | nil => exact (BitVec.add_zero _).symm
  | cons d ds ih =>
    refine (ih _).trans ?_
    rw [State.core_hostMemWrite, if_pos rfl, List.length_cons]
    bv_omega

theorem run_zero (s : State) : Host.Core.run Sys2Proof.core 0 s = .next s := rfl

theorem run_succ {s t : State} (h : step s = .next t) (n : Nat) :
    Host.Core.run Sys2Proof.core (n + 1) s = Host.Core.run Sys2Proof.core n t := by
  simp only [Host.Core.run, show Sys2Proof.core.step s = .next t from h]

theorem wordsOnPort_eq_self {inputs : SampleInputs} {ws : List CmdWord} {s : State}
    (h : s.io.pending = ws.map fun w => .word w inputs) : wordsOnPort inputs ws s = s := by rw [wordsOnPort, ← h]

/-- The first step of a burst whose words stand on the port: one host memory write, and the other words stand on the port. -/
theorem step_burst (inputs : SampleInputs) (w : CmdWord) (ws : List CmdWord) {s : State} (hb : s.burstRemaining ≠ 0#16) :
    ∃ u, step (wordsOnPort inputs (w :: ws) s) = .next (wordsOnPort inputs ws u)
      ∧ u.burstRemaining = s.burstRemaining - 1#16 ∧ u.burstCore = s.burstCore
      ∧ u.offPort = s.offPort.hostMemWrite config s.burstCore (dataField w) := by
  have hstep : step (wordsOnPort inputs (w :: ws) s) = _ := step_of_payload rfl hb
  obtain ⟨-, -, -, hrem, hcore, -, -, hio⟩ :=
    globals_payload config ((wordsOnPort inputs (w :: ws) s).accept (ws.map fun w => .word w inputs) inputs) w
  have hport := wordsOnPort_eq_self (congrArg Ports.pending hio)
  exact ⟨_, hstep.trans (congrArg _ hport.symm), hrem, hcore, State.offPort_payload config _ w⟩

/-- The words of a burst on the port run to the state of their host memory writes, the ports and the burst count apart. -/
theorem run_burst (inputs : SampleInputs) (ws : List CmdWord) (s : State) (hn : ws.length = s.burstRemaining.toNat) :
    ∃ t, Host.Core.run Sys2Proof.core ws.length (wordsOnPort inputs ws s) = .next t ∧ t.burstRemaining = 0#16
      ∧ t.offPort = hostWrites config s.burstCore (ws.map dataField) s.offPort := by
  induction ws generalizing s with
  | nil => exact ⟨_, run_zero _, BitVec.eq_of_toNat_eq hn.symm, rfl⟩
  | cons w ws ih =>
    have hb : s.burstRemaining ≠ 0#16 := fun h => by rw [h] at hn; cases hn
    obtain ⟨u, hstep, hrem, hcore, hu⟩ := step_burst inputs w ws hb
    have hlen : ws.length = u.burstRemaining.toNat := by
      rw [hrem, toNat_burst_pred hb, ← hn, List.length_cons, Nat.add_sub_cancel]
    obtain ⟨t, ht, hdone, hoff⟩ := ih u hlen
    refine ⟨t, (run_succ hstep _).trans ht, hdone, ?_⟩
    rw [hoff, hcore, hu]
    rfl

/-- Settles O8: `run_burst`, read field by field. -/
theorem burstIsThatManyHostWrites : Obligations.BurstIsThatManyHostWrites := by
  intro s ws inputs hn
  obtain ⟨t, ht, hdone, hoff⟩ := run_burst inputs ws s hn
  obtain ⟨htick, herr, hcode, -, -, hout, hrsp, -⟩ := globals_hostWrites config s.burstCore (ws.map dataField) s
  have htda := tda_hostWrites config s.burstCore (ws.map dataField) s
  rw [← offPort_hostWrites] at hoff
  generalize hostWrites config s.burstCore (ws.map dataField) s = u at *
  simp only [State.offPort, State.mk.injEq] at hoff
  obtain ⟨hmem, hcache, hcore0, hcore1, htick', herr', hcode', -, -, hout', hrsp', -⟩ := hoff
  refine ⟨t, ht, hdone, hmem, hcache, ⟨hcore0, hcore1⟩, ?_, htick'.trans htick, hout'.trans hout, hrsp'.trans hrsp,
    herr'.trans herr, hcode'.trans hcode⟩
  have hcore : t.core s.burstCore = u.core s.burstCore := by simp only [State.core, hcore0, hcore1]
  rw [hcore, htda, List.length_map]
  bv_omega

/-! ## The tick (R290) -/

/-- The master volume of core 1 answers i16 samples (43_volume_mixer.md R204), so storing them keeps them. -/
theorem toInt_toI16_mixBoth (cfg : Config) (s : State) :
    (toI16 (s.mixBoth cfg).2.l).toInt = (s.mixBoth cfg).2.l ∧ (toI16 (s.mixBoth cfg).2.r).toInt = (s.mixBoth cfg).2.r :=
  ⟨toInt_toI16_sat16 _, toInt_toI16_sat16 _⟩

/-- What stands on the output after a tick, and its cores, memory and cache: as the second mix leaves them. -/
theorem runTick_after_mixes (cfg : Config) (s : State) :
    (s.runTick cfg).out.l.toInt = ((s.stepNoise cfg).mixBoth cfg).2.l
      ∧ (s.runTick cfg).out.r.toInt = ((s.stepNoise cfg).mixBoth cfg).2.r
      ∧ SameCores ((s.stepNoise cfg).mixBoth cfg).1 (s.runTick cfg)
      ∧ (s.runTick cfg).mem = ((s.stepNoise cfg).mixBoth cfg).1.mem
      ∧ (s.runTick cfg).cache = ((s.stepNoise cfg).mixBoth cfg).1.cache := by
  obtain ⟨hl, hr⟩ := toInt_toI16_mixBoth cfg (s.stepNoise cfg)
  unfold State.runTick
  generalize (s.stepNoise cfg).mixBoth cfg = m at *
  exact ⟨hl, hr, ⟨rfl, rfl⟩, rfl, rfl⟩

/-- The noise and the ring position of each core after a tick. -/
theorem noise_outPos_runTick (cfg : Config) (s : State) (c : CoreId) :
    ((s.runTick cfg).core c).noise = cfg.noiseStep (s.core c).noise
      ∧ ((s.runTick cfg).core c).outPos = ((s.core c).outPos + 1) % cfg.outRingLen := by
  rw [core_runTick]
  obtain ⟨hn0, ho0⟩ := noise_outPos_mixCore cfg (s.stepNoise cfg) .c0 c (s.stepNoise cfg).ext0 (s.stepNoise cfg).snd0
  obtain ⟨hn1, ho1⟩ := noise_outPos_mixCore cfg
    ((s.stepNoise cfg).mixCore cfg .c0 (s.stepNoise cfg).ext0 (s.stepNoise cfg).snd0).1 .c1 c
    ((s.stepNoise cfg).mixCore cfg .c0 (s.stepNoise cfg).ext0 (s.stepNoise cfg).snd0).2 (s.stepNoise cfg).snd1
  refine ⟨(hn1.trans hn0).trans (by cases c <;> rfl), ho1.trans ?_⟩
  rw [ho0]
  cases c <;> rfl

/-- Settles O33: the tick is its two mixes (`runTick_after_mixes`), the second answering what is pushed. -/
theorem tickAdvancesAndPushesOnce : Obligations.TickAdvancesAndPushesOnce := by
  intro s
  have ht := exec_tick s
  have hcore := noise_outPos_runTick config s
  obtain ⟨htick, herr, hcode, hrem, hburst, hrsp, hpend, hinputs, hpush⟩ := globals_runTick config s
  have hmixes := runTick_after_mixes config s
  generalize s.runTick config = t at *
  exact ⟨t, ht, htick, (hcore .c0).1, (hcore .c1).1, hpush, hpend, hinputs, herr, hcode, hrem, hburst, hrsp,
    fun c => (hcore c).2, hmixes⟩

end Sys2Proof.Machine
end

section
/-! PROOFS, family 70_reset_and_hazards.md: the `rst` port (O9). -/

namespace Sys2Proof.Machine

-- As in Tests/Slice0.lean: elaborated at once, these theorems ask for more threads than the check's memory limit allows.
set_option Elab.async false

/-! ## The power-on reset (R330) -/

/-- Of the state before, a power-on reset keeps the ports alone. -/
theorem powerOn_eq_reset (s : State) : powerOn config s = { State.reset with io := s.io } := rfl

/-- Memory after a power-on reset, whatever it held before. -/
theorem State.memRead_powerOn (cfg : Config) (s : State) (a : Addr) : (powerOn cfg s).memRead cfg a = cfg.memInit a :=
  Memory.word_nil cfg a

/-- `rst` at the head of the port: `burstRemaining` is not asked, so a burst in progress ends with it (R330 a). -/
theorem step_of_rst {s : State} {rest : List PortEvent} (h : s.io.pending = .rst :: rest) :
    step s = .next (powerOn config (s.accept rest s.io.inputs)) := by
  simp only [step, h, eventStep]

/-- Settles O9: the step is the power-on reset of the state whose port has moved on to `rest`. -/
theorem stepResetPort : Obligations.StepResetPort := by
  intro s rest h
  exact ⟨_, step_of_rst h, powerOn_eq_reset _, rfl, rfl, State.memRead_powerOn config _⟩

end Sys2Proof.Machine
end

section
/-! PROOFS, family other: the words the spec writes out (O4). -/

namespace Sys2Proof

-- As in Tests/Slice0.lean: the threads of the whole text come near the check's memory limit.
set_option Elab.async false

/-- A word that is the encoding of a well-formed instruction decodes to it. -/
theorem decode_of_encode_eq {w : CmdWord} {i : Instr} (hwf : i.wellFormed = true) (hw : encode i = w) : decode w = .ok i :=
  hw ▸ decodeOfEncode i hwf

/-- Settles O4: each word is the encoding of its instruction (30_encoding.md R92, R93), which the decoder undoes. -/
theorem specExampleWordsDecode : Obligations.SpecExampleWordsDecode := by
  unfold Obligations.SpecExampleWordsDecode
  and_intros
  all_goals exact decode_of_encode_eq rfl rfl

end Sys2Proof
end

section
/-! PROOFS, family 60_exceptions.md: who clears a status flag (O36, O40, O41), the error latch (O42), the match check (O60). -/

namespace Sys2Proof.Machine

-- As in Tests/Slice0.lean: elaborated at once, these theorems ask for more threads than the check's memory limit allows.
set_option Elab.async false

/-! ## The match check (R303) -/

theorem beq_eq_decide_toNat (a b : Addr) : (a == b) = decide (a.toNat = b.toNat) := by
  simp only [← BitVec.toNat_inj, Bool.beq_eq_decide_eq]

/-- One core's part of the match check as a write of one field: a core that does not match has its pending bit written as it is. -/
theorem Core.irqCheck_eq (k : Core) (a : Addr) :
    k.irqCheck a = { k with irqPending := k.irqPending || (k.irqEn && decide (k.irqAddr.toNat = a.toNat)) } := by
  rw [← beq_eq_decide_toNat, Core.irqCheck]
  split
  · next hmatch => rw [hmatch, Bool.or_true]
  · next hmatch => rw [Bool.eq_false_of_not_eq_true hmatch, Bool.or_false]

/-- Settles O60: the check is that of one core (`Core.irqCheck_eq`) on both, and touches nothing else. -/
theorem matchCheckLooksAtBothCores : Obligations.MatchCheckLooksAtBothCores := fun s a =>
  ⟨fun c => (State.core_irqCheck s a c).trans (Core.irqCheck_eq _ a), rfl, rfl, rfl, rfl, rfl, rfl, rfl, rfl, rfl, rfl⟩

/-! ## The flags over a tick (R307) -/

theorem flagsOnlySet_runTick (cfg : Config) (s : State) (c : CoreId) :
    FlagsOnlySet (s.core c) ((s.runTick cfg).core c) := by
  rw [core_runTick]
  exact (TickPhase.mixes cfg s).flags c

/-- Settles O36: the mixes of the tick only set flags, and the push is on neither core. -/
theorem tickOnlySetsFlags : Obligations.TickOnlySetsFlags := fun s => ⟨_, exec_tick s, flagsOnlySet_runTick config s⟩

/-! ## The flags over one instruction (R305, R306) -/

theorem FlagsOnlySet.of_eq {k k' : Core} (hendx : k'.endx = k.endx) (hirq : k'.irqPending = k.irqPending) : FlagsOnlySet k k' :=
  ⟨fun v h => by rwa [hendx], fun h => by rwa [hirq]⟩

/-- What the instruction does to the flags of core `c`, which it takes from `k` to `k'`: it clears none, or it is one of the six that
clear some, and then what the rules leave standing stands. -/
inductive FlagChange (c : CoreId) (k k' : Core) : Instr → Prop
  | onlySet {i : Instr} (h : FlagsOnlySet k k') : FlagChange c k k' i
  | attr {d : Half} (hendx : k'.endx = k.endx) (hirq : k'.irqPending = (k.irqPending && d.getLsbD 1)) :
      FlagChange c k k' (.wregAttr c d)
  | endxLo {d : Half} (hirq : k'.irqPending = k.irqPending) : FlagChange c k k' (.wregEndxLo c d)
  | endxHi {d : Half} (hirq : k'.irqPending = k.irqPending) : FlagChange c k k' (.wregEndxHi c d)
  | konLo {d : Half} (hirq : k'.irqPending = k.irqPending)
      (hendx : ∀ v, maskBit k'.endx v = (maskBit k.endx v && !selectedLo d v)) : FlagChange c k k' (.wregKonLo c d)
  | konHi {d : Half} (hirq : k'.irqPending = k.irqPending)
      (hendx : ∀ v, maskBit k'.endx v = (maskBit k.endx v && !selectedHi d v)) : FlagChange c k k' (.wregKonHi c d)
  | reset : FlagChange c k k' .reset

theorem FlagChange.of_core_eq {c : CoreId} {i : Instr} {s t : State} (h : t.core c = s.core c) :
    FlagChange c (s.core c) (t.core c) i := .onlySet (by rw [h]; exact .refl _)

/-- A `WREG` of a register of core `c` is to be looked at on core `c` only. -/
theorem FlagChange.wregCore {i : Instr} {s : State} {c : CoreId} {reg : BitVec 9} {d : Half} {f : Core → Core}
    (h : FlagChange c (s.core c) ((s.wregCore c reg d f).core c) i) (e : CoreId) :
    FlagChange e (s.core e) ((s.wregCore c reg d f).core e) i := by
  by_cases he : e = c
  · rw [he]; exact h
  · exact .of_core_eq (by rw [State.core_wregCore, if_neg he])

/-- A field the effect of a `WREG` leaves alone, the shadow not counted. -/
theorem State.core_wregCore_keeps {α : Type} (p : Core → α) (s : State) (c : CoreId) (reg : BitVec 9) (d : Half)
    (f : Core → Core)
    (hf : ∀ k, p (f k) = p k) (hs : ∀ k x, p { k with shadow := x } = p k) :
    p ((s.wregCore c reg d f).core c) = p (s.core c) := by
  rw [State.core_wregCore, if_pos rfl, hf, hs]

theorem irqPending_wregCore_forMask (s : State) (c : CoreId) (reg : BitVec 9) (d : Half) (m : VoiceMask)
    {g : Core → VoiceId → Core} (hg : ∀ k v, (g k v).irqPending = k.irqPending) :
    ((s.wregCore c reg d (·.forMask m g)).core c).irqPending = (s.core c).irqPending :=
  State.core_wregCore_keeps Core.irqPending s c reg d _ (fun k => Core.forMask_keeps Core.irqPending k m hg) fun _ _ => rfl

/-- `ATTR` with bit 1 = 0 clears the pending bit (R270). -/
theorem irqPending_wregAttr (s : State) (c : CoreId) (reg : BitVec 9) (d : Half) :
    ((s.wregCore c reg d (writeAttr d)).core c).irqPending = ((s.core c).irqPending && d.getLsbD 1) := by
  rw [State.core_wregCore, if_pos rfl]
  rfl

/-- A `WREG` whose effect leaves both flags alone. -/
theorem flagsOnlySet_wregCore (s : State) (c : CoreId) (reg : BitVec 9) (d : Half) {f : Core → Core}
    (hendx : ∀ k, (f k).endx = k.endx) (hirq : ∀ k, (f k).irqPending = k.irqPending) :
    FlagsOnlySet (s.core c) ((s.wregCore c reg d f).core c) :=
  .of_eq (State.core_wregCore_keeps Core.endx s c reg d f hendx fun _ _ => rfl)
    (State.core_wregCore_keeps Core.irqPending s c reg d f hirq fun _ _ => rfl)

theorem flagsOnlySet_wregData (s : State) (c e : CoreId) (reg : BitVec 9) (d : Half) :
    FlagsOnlySet (s.core e) (((s.setShadow c reg d).hostMemWrite config c d).core e) := by
  have hshadow : FlagsOnlySet (s.core e) ((s.setShadow c reg d).core e) := by
    rw [State.core_setShadow]
    exact .of_eq rfl rfl
  exact hshadow.trans (flagsOnlySet_hostMemWrite config _ c e d)

theorem core_flagErr (err : DecodeError) (s : State) (c : CoreId) : (flagErr err s).core c = s.core c := by cases c <;> rfl

/-- `RREG` writes the response, or flags the reserved index (R283). -/
theorem execRreg_cases {c : CoreId} {reg : BitVec 9} {s t : State} (h : execRreg c reg s = .next t) :
    (∃ e, t = flagErr e s) ∨ ∃ x, t = { s with rspData := x } := by
  unfold execRreg at h
  split at h
  · cases h; exact .inl ⟨_, rfl⟩
  · cases h; exact .inr ⟨_, rfl⟩

theorem core_execRreg {c : CoreId} {reg : BitVec 9} {s t : State} (h : execRreg c reg s = .next t) (e : CoreId) :
    t.core e = s.core e := by
  obtain ⟨_, rfl⟩ | ⟨_, rfl⟩ := execRreg_cases h
  · exact core_flagErr _ s e
  · cases e <;> rfl

/-- Every instruction, by the cases of `exec_cases` in their order. -/
theorem exec_flagChange {i : Instr} {s t : State} (h : exec i s = .next t) (e : CoreId) :
    FlagChange e (s.core e) (t.core e) i := by
  rcases exec_cases i s with hn | hv | hk | ⟨c, d, rfl⟩ | ⟨c, d, rfl | rfl⟩ | ⟨c, d, rfl⟩ | ⟨c, d, rfl⟩ | ⟨c, d, rfl⟩
    | ⟨c, d, rfl⟩ | ⟨c, d, rfl⟩ | ⟨c, reg, rfl⟩ | ⟨c, n, rfl⟩ | rfl | rfl
  · cases hn.symm.trans h; exact .of_core_eq rfl
  · obtain ⟨c, v, k, d, f, he, -, -⟩ := hv
    cases he.symm.trans h
    exact .wregCore (.onlySet (flagsOnlySet_wregCore s c (voiceIndex v k) d (f := (·.modVoice v f)) (fun _ => rfl)
      fun _ => rfl)) e
  · obtain ⟨c, reg, d, f, he, -, hf⟩ := hk
    cases he.symm.trans h
    exact .wregCore (.onlySet (flagsOnlySet_wregCore s c reg d (fun k => (hf k).endx) fun k => (hf k).irqPending)) e
  · cases h
    refine .wregCore (.attr ?_ ?_) e
    · exact State.core_wregCore_keeps Core.endx s c _ d _ (fun _ => rfl) fun _ _ => rfl
    · exact irqPending_wregAttr s c _ d
  · cases h
    refine .wregCore (.endxLo ?_) e
    exact State.core_wregCore_keeps Core.irqPending s c _ d _ (fun _ => rfl) fun _ _ => rfl
  · cases h
    refine .wregCore (.endxHi ?_) e
    exact State.core_wregCore_keeps Core.irqPending s c _ d _ (fun _ => rfl) fun _ _ => rfl
  · cases h
    refine .wregCore (.konLo ?_ ?_) e
    · exact irqPending_wregCore_forMask s c _ d _ fun _ _ => rfl
    · exact endx_wregCore_keyOn (loMask_bit d) s c _ d
  · cases h
    refine .wregCore (.konHi ?_ ?_) e
    · exact irqPending_wregCore_forMask s c _ d _ fun _ _ => rfl
    · exact endx_wregCore_keyOn (hiMask_bit d) s c _ d
  -- both `KOFF`
  iterate 2
    · cases h
      refine .wregCore (.onlySet (.of_eq ?_ ?_)) e
      · exact endx_wregCore_keyOff s c _ d _
      · exact irqPending_wregCore_forMask s c _ d _ fun _ _ => rfl
  · cases h; exact .onlySet (flagsOnlySet_wregData s c e _ d)
  · exact .of_core_eq (core_execRreg h e)
  · cases h; exact .of_core_eq (by cases e <;> rfl)
  · rw [Host.Outcome.next.inj (h.symm.trans (exec_tick s))]
    exact .onlySet (flagsOnlySet_runTick config s e)
  · exact .reset

/-! ## The flags over one step -/

theorem flagsOnlySet_payload (cfg : Config) (s : State) (w : CmdWord) (c : CoreId) :
    FlagsOnlySet (s.core c) ((s.payload cfg w).core c) := by
  have hcore : (s.payload cfg w).core c = (s.hostMemWrite cfg s.burstCore (dataField w)).core c := by cases c <;> rfl
  rw [hcore]
  exact flagsOnlySet_hostMemWrite cfg s s.burstCore c (dataField w)

/-- One step on the flags of a core: none is cleared, or it is `rst`, or an instruction outside a burst. -/
theorem step_flag_cases {s t : State} (h : step s = .next t) (c : CoreId) :
    FlagsOnlySet (s.core c) (t.core c)
      ∨ (∃ rest, s.io.pending = .rst :: rest)
      ∨ ∃ w inputs rest i, s.io.pending = .word w inputs :: rest ∧ s.burstRemaining = 0#16 ∧ decode w = .ok i
          ∧ FlagChange c (s.core c) (t.core c) i := by
  rcases step_cases h with ⟨-, rfl⟩ | ⟨rest, hp, -⟩ | ⟨w, inputs, rest, hp, ⟨-, rfl⟩ | ⟨-, e, -, rfl⟩ | ⟨hb, i, hd, he⟩⟩
  · exact .inl (.refl _)
  · exact .inr (.inl ⟨rest, hp⟩)
  · have hflags := flagsOnlySet_payload config (s.accept rest inputs) w c
    rw [State.core_accept] at hflags
    exact .inl hflags
  · rw [core_flagErr, State.core_accept]
    exact .inl (.refl _)
  · have hchange := exec_flagChange he c
    rw [State.core_accept] at hchange
    exact .inr (.inr ⟨w, inputs, rest, i, hp, hb, hd, hchange⟩)

/-- The instructions that can clear a pending interrupt (R305). -/
theorem FlagChange.irq_cleared {c : CoreId} {k k' : Core} {i : Instr} (h : FlagChange c k k' i) (hset : k.irqPending = true)
    (hclear : k'.irqPending = false) : i = .reset ∨ ∃ d, i = .wregAttr c d ∧ d.getLsbD 1 = false := by
  cases h with
  | reset => exact .inl rfl
  | attr _ hirq => exact .inr ⟨_, rfl, by simpa [hset, hclear] using hirq⟩
  | onlySet hflags => exact absurd (hflags.2 hset) (by simp [hclear])
  | endxLo hirq | endxHi hirq | konLo hirq _ | konHi hirq _ => simp [hset, hclear] at hirq

/-- The instructions that can clear an ENDX bit (R306). -/
theorem FlagChange.endx_cleared {c : CoreId} {k k' : Core} {i : Instr} {v : VoiceId} (h : FlagChange c k k' i)
    (hset : maskBit k.endx v = true) (hclear : maskBit k'.endx v = false) :
    i = .reset ∨ ∃ d, i = .wregEndxLo c d ∨ i = .wregEndxHi c d ∨ (i = .wregKonLo c d ∧ selectedLo d v = true)
      ∨ (i = .wregKonHi c d ∧ selectedHi d v = true) := by
  cases h with
  | reset => exact .inl rfl
  | endxLo _ => exact .inr ⟨_, .inl rfl⟩
  | endxHi _ => exact .inr ⟨_, .inr (.inl rfl)⟩
  | konLo _ hendx => exact .inr ⟨_, .inr (.inr (.inl ⟨rfl, by simpa [hset, hclear] using hendx v⟩))⟩
  | konHi _ hendx => exact .inr ⟨_, .inr (.inr (.inr ⟨rfl, by simpa [hset, hclear] using hendx v⟩))⟩
  | onlySet hflags => exact absurd (hflags.1 v hset) (by simp [hclear])
  | attr hendx _ => simp [hendx, hset] at hclear

/-- Settles O40: what a step that clears flags can be (`step_flag_cases`), and which instructions clear this one. -/
theorem interruptClearedOnlyByAttrOrReset : Obligations.InterruptClearedOnlyByAttrOrReset := by
  intro s t c hst hset hclear
  rcases step_flag_cases hst c with hflags | hrst | ⟨w, inputs, rest, i, hp, hb, hd, hchange⟩
  · exact absurd (hflags.2 hset) (by simp [hclear])
  · exact .inl hrst
  refine .inr ⟨w, inputs, rest, hp, hb, ?_⟩
  rcases hchange.irq_cleared hset hclear with rfl | ⟨d, rfl, hbit⟩
  · exact .inl hd
  · exact .inr ⟨d, hd, hbit⟩

/-- Settles O41: what a step that clears flags can be (`step_flag_cases`), and which instructions clear this bit. -/
theorem endxClearedOnlyByKeyOnWriteOrReset : Obligations.EndxClearedOnlyByKeyOnWriteOrReset := by
  intro s t c v hst hset hclear
  rcases step_flag_cases hst c with hflags | hrst | ⟨w, inputs, rest, i, hp, hb, hd, hchange⟩
  · exact absurd (hflags.1 v hset) (by simp [hclear])
  · exact .inl hrst
  refine .inr ⟨w, inputs, rest, hp, hb, ?_⟩
  rcases hchange.endx_cleared hset hclear with rfl | ⟨d, rfl | rfl | ⟨rfl, hsel⟩ | ⟨rfl, hsel⟩⟩
  · exact .inl hd
  · exact .inr ⟨d, .inl hd⟩
  · exact .inr ⟨d, .inr (.inl hd)⟩
  · exact .inr ⟨d, .inr (.inr (.inl ⟨hd, hsel⟩))⟩
  · exact .inr ⟨d, .inr (.inr (.inr ⟨hd, hsel⟩))⟩

/-! ## The error latch (R300, R26) -/

/-- A set error latch stays set, and a recorded code stays. -/
def LatchKept (s t : State) : Prop := s.cmdErr = true → t.cmdErr = true ∧ (s.errCode ≠ 0#2 → t.errCode = s.errCode)

theorem LatchKept.of_eq {s t : State} (herr : t.cmdErr = s.cmdErr) (hcode : t.errCode = s.errCode) : LatchKept s t :=
  fun h => ⟨herr.trans h, fun _ => hcode⟩

theorem LatchKept.of_globals {s t : State} (h : SameGlobals s t) : LatchKept s t :=
  have ⟨_, herr, hcode, _⟩ := h
  .of_eq herr hcode

/-- A further illegal command does not replace the first code. -/
theorem latchKept_flagErr (e : DecodeError) (s : State) : LatchKept s (flagErr e s) :=
  fun _ => ⟨rfl, fun hcode => if_neg hcode⟩

theorem latchKept_wregCore (s : State) (c : CoreId) (reg : BitVec 9) (d : Half) (f : Core → Core) :
    LatchKept s (s.wregCore c reg d f) :=
  have ⟨_, _, _, hglobals⟩ := sameOutside_wregCore s c reg d f
  .of_globals hglobals

theorem latchKept_execRreg {c : CoreId} {reg : BitVec 9} {s t : State} (h : execRreg c reg s = .next t) : LatchKept s t := by
  obtain ⟨e, rfl⟩ | ⟨_, rfl⟩ := execRreg_cases h
  · exact latchKept_flagErr e s
  · exact .of_eq rfl rfl

theorem latchKept_runTick (cfg : Config) (s : State) : LatchKept s (s.runTick cfg) :=
  have ⟨_, herr, hcode, _⟩ := globals_runTick cfg s
  .of_eq herr hcode

theorem latchKept_payload (cfg : Config) (s : State) (w : CmdWord) : LatchKept s (s.payload cfg w) :=
  have ⟨_, herr, hcode, _⟩ := globals_payload cfg s w
  .of_eq herr hcode

/-- Every instruction but `RESET`, by the cases of `exec_cases` in their order. -/
theorem exec_latch_cases {i : Instr} {s t : State} (h : exec i s = .next t) : LatchKept s t ∨ i = .reset := by
  rcases exec_cases i s with hn | hv | hk | ⟨c, d, rfl⟩ | ⟨c, d, rfl | rfl⟩ | ⟨c, d, rfl⟩ | ⟨c, d, rfl⟩ | ⟨c, d, rfl⟩
    | ⟨c, d, rfl⟩ | ⟨c, d, rfl⟩ | ⟨c, reg, rfl⟩ | ⟨c, n, rfl⟩ | rfl | rfl
  · cases hn.symm.trans h; exact .inl (.of_eq rfl rfl)
  · obtain ⟨c, v, k, d, f, he, -, -⟩ := hv
    cases he.symm.trans h; exact .inl (latchKept_wregCore s c (voiceIndex v k) d (·.modVoice v f))
  · obtain ⟨c, reg, d, f, he, -, -⟩ := hk
    cases he.symm.trans h; exact .inl (latchKept_wregCore s c reg d f)
  -- `ATTR`, both `ENDX`, both `KON` and both `KOFF`
  iterate 7
    · cases h; exact .inl (latchKept_wregCore s c _ d _)
  · cases h; exact .inl (.of_globals ((globals_setShadow s c _ d).trans (State.globals_hostMemWrite config _ c d)))
  · exact .inl (latchKept_execRreg h)
  · cases h; exact .inl (.of_eq rfl rfl)
  · rw [Host.Outcome.next.inj (h.symm.trans (exec_tick s))]
    exact .inl (latchKept_runTick config s)
  · exact .inr rfl

/-- Settles O42, by the cases of a step. Taking the event off the port does not touch the latch. -/
theorem errorLatchClearedOnlyByReset : Obligations.ErrorLatchClearedOnlyByReset := by
  intro s t hst herr
  rcases step_cases hst with ⟨-, rfl⟩ | ⟨rest, hp, -⟩ | ⟨w, inputs, rest, hp, ⟨-, rfl⟩ | ⟨-, e, -, rfl⟩ | ⟨hb, i, hd, he⟩⟩
  · exact .inl ⟨herr, fun _ => rfl⟩
  · exact .inr (.inl ⟨rest, hp⟩)
  · exact .inl (latchKept_payload config (s.accept rest inputs) w herr)
  · exact .inl (latchKept_flagErr e (s.accept rest inputs) herr)
  · rcases exec_latch_cases he with hkept | rfl
    · exact .inl (hkept herr)
    · exact .inr (.inr ⟨w, inputs, rest, hp, hb, hd⟩)

end Sys2Proof.Machine
end
